-- ==== Sys2Proof/Word.lean ====
section
/-! DEFINITION. The word types of the block: bytes of the framebuffer, 16-bit registers, 64-bit command words
and 32-bit response words. -/

namespace Sys2Proof

/-- One framebuffer byte (20_memory.md R70). -/
abbrev Byte := BitVec 8

/-- A 16-bit register or field (10_state.md R37, 30_encoding.md R101). -/
abbrev Half := BitVec 16

/-- A command word (30_encoding.md R100). -/
abbrev CommandWord := BitVec 64

/-- A response word (30_encoding.md R110). -/
abbrev ResponseWord := BitVec 32

end Sys2Proof
end

