-- ==== Sys2Proof/Syntax.lean ====
section
/-! DEFINITION. The instructions (command words) of the block, one constructor for each row of
spec/opcode_table.json, with their operands as 30_encoding.md R102 assembles them. -/

namespace Sys2Proof

/-- The four rotations (10_state.md R35), in the order of their codes 0 to 3. -/
inductive Rotation where
  | deg0
  | deg90
  | deg180
  | deg270
  deriving DecidableEq, Repr

/-- The instructions (30_encoding.md R104). Coordinates are the integers `sext_16` gives, addresses and register
indices the naturals `zext_16` gives (R102); their ranges are `WellFormed`. -/
inductive Instr where
  /-- NOP (44_control.md R250). -/
  | nop
  /-- INIT, `rst` is the source's performReset (44_control.md R251). -/
  | init (rst : Bool)
  /-- ROT (40_transform.md R146). -/
  | rot (r : Rotation)
  /-- SETPIX with mode CLEAR (41_pixel.md R161). -/
  | setpixClear (x y : Int)
  /-- SETPIX with mode SET (41_pixel.md R161). -/
  | setpixSet (x y : Int)
  /-- SETPIX with mode INVERT (41_pixel.md R161). -/
  | setpixInvert (x y : Int)
  /-- GETPIX (41_pixel.md R165). -/
  | getpix (x y : Int)
  /-- CLEAR (41_pixel.md R167). -/
  | clear
  /-- MARK, in physical coordinates (42_dirty.md R193). -/
  | mark (x y : Int)
  /-- FLUSH (43_flush.md R210). -/
  | flush
  /-- FBRD (41_pixel.md R172). -/
  | fbrd (addr : Nat)
  /-- FBWR (41_pixel.md R175). -/
  | fbwr (addr : Nat) (byte : Byte)
  /-- RDREG (44_control.md R255). -/
  | rdreg (idx : Nat)
  deriving DecidableEq, Repr

end Sys2Proof
end

