-- ==== Sys2Proof/WellFormed.lean ====
section
/-! DEFINITION. The operands that a command word can carry (30_encoding.md R102, R117): "An operand out of its
field's range ... is an assembly error, not a command." -/

namespace Sys2Proof

/-- A coordinate fits the 16-bit two's complement field X or Y (30_encoding.md R102). -/
def coordFits (v : Int) : Bool := decide (-32768 ≤ v ∧ v ≤ 32767)

/-- An address or a register index fits the 16-bit field ADDR (30_encoding.md R102). -/
def addrFits (a : Nat) : Bool := decide (a < 65536)

/-- Every operand fits its field. -/
def Instr.fits : Instr → Bool
  | .nop => true
  | .init _ => true
  | .rot _ => true
  | .setpixClear x y => coordFits x && coordFits y
  | .setpixSet x y => coordFits x && coordFits y
  | .setpixInvert x y => coordFits x && coordFits y
  | .getpix x y => coordFits x && coordFits y
  | .clear => true
  | .mark x y => coordFits x && coordFits y
  | .flush => true
  | .fbrd addr => addrFits addr
  | .fbwr addr _ => addrFits addr
  | .rdreg idx => addrFits idx

/-- The instruction is one that a command word can stand for. -/
abbrev WellFormed (i : Instr) : Prop := i.fits = true

end Sys2Proof
end

