-- ==== Sys2Proof/Decode.lean ====
section
/-! DEFINITION. The decoder of command words, total and rejecting by name, the encoder beside it, and the
match and mask table (30_encoding.md R101 to R106, R112 to R116). -/

namespace Sys2Proof

/-- The fields of a command word (30_encoding.md R101). -/
structure CommandFields where
  op : BitVec 4
  sub : BitVec 4
  rsv : BitVec 8
  addr : Half
  x : Half
  y : Half
  deriving DecidableEq, Repr

/-- The fields of `w`: OP [63:60], SUB [59:56], RSV [55:48], ADDR [47:32], X [31:16], Y [15:0] (R101). -/
def fieldsOf (w : CommandWord) : CommandFields where
  op := w.extractLsb' 60 4
  sub := w.extractLsb' 56 4
  rsv := w.extractLsb' 48 8
  addr := w.extractLsb' 32 16
  x := w.extractLsb' 16 16
  y := w.extractLsb' 0 16

/-- The command word with the given fields, the first at the top (R101). -/
def wordOf (f : CommandFields) : CommandWord := f.op ++ f.sub ++ f.rsv ++ f.addr ++ f.x ++ f.y

/-- `sext_16` (00_scope.md R16). -/
def sext16 (v : Half) : Int := v.toInt

/-- `zext_16` (00_scope.md R16). -/
def zext16 (v : Half) : Nat := v.toNat

/-- The 16-bit field that `sext_16` reads as `v`, for `v` in -32768 to 32767. -/
def coordField (v : Int) : Half := BitVec.ofInt 16 v

/-- The 16-bit field that `zext_16` reads as `a`, for `a` below 65536. -/
def addrField (a : Nat) : Half := BitVec.ofNat 16 a

/-- The rotation of a 2-bit code (10_state.md R35). -/
def rotationOfCode (c : BitVec 2) : Rotation :=
  if c = 0 then .deg0 else if c = 1 then .deg90 else if c = 2 then .deg180 else .deg270

/-- The 2-bit code of a rotation (10_state.md R35). -/
def rotationCode : Rotation → BitVec 2
  | .deg0 => 0
  | .deg90 => 1
  | .deg180 => 2
  | .deg270 => 3

/-- Why a command word is illegal. -/
inductive Illegal where
  /-- OP is 0xB to 0xF (30_encoding.md R112). -/
  | reservedOpcode
  /-- A bit outside the used fields of the command's format is set (30_encoding.md R113). -/
  | unusedBitSet
  /-- SETPIX with mode 3 (30_encoding.md R114). -/
  | reservedPixelMode
  deriving DecidableEq, Repr

/-- `i` when the bits that must be zero are zero. -/
def whenZero (unusedZero : Bool) (i : Instr) : Except Illegal Instr :=
  if unusedZero then .ok i else .error .unusedBitSet

/-- SETPIX by its mode, SUB[1:0] (30_encoding.md R105). -/
def setpixOfMode (mode : BitVec 2) (x y : Int) : Except Illegal Instr :=
  if mode = 0 then .ok (.setpixClear x y)
  else if mode = 1 then .ok (.setpixSet x y)
  else if mode = 2 then .ok (.setpixInvert x y)
  else .error .reservedPixelMode

/-- The instruction of the given fields, by the formats of 30_encoding.md R103 and the opcode map of R104. -/
def decodeFields (f : CommandFields) : Except Illegal Instr :=
  let noX := f.x == 0
  let noY := f.y == 0
  let noSub := f.sub == 0
  let noAddr := f.addr == 0
  let noRsv := f.rsv == 0
  match f.op.toNat with
  | 0 => whenZero (noSub && noRsv && noAddr && noX && noY) .nop
  | 1 => whenZero (f.sub.extractLsb' 1 3 == 0 && noRsv && noAddr && noX && noY) (.init (f.sub.getLsbD 0))
  | 2 => whenZero (f.sub.extractLsb' 2 2 == 0 && noRsv && noAddr && noX && noY)
      (.rot (rotationOfCode (f.sub.extractLsb' 0 2)))
  | 3 =>
    if f.sub.extractLsb' 2 2 == 0 && noRsv && noAddr
    then setpixOfMode (f.sub.extractLsb' 0 2) (sext16 f.x) (sext16 f.y)
    else .error .unusedBitSet
  | 4 => whenZero (noSub && noRsv && noAddr) (.getpix (sext16 f.x) (sext16 f.y))
  | 5 => whenZero (noSub && noRsv && noAddr && noX && noY) .clear
  | 6 => whenZero (noSub && noRsv && noAddr) (.mark (sext16 f.x) (sext16 f.y))
  | 7 => whenZero (noSub && noRsv && noAddr && noX && noY) .flush
  | 8 => whenZero (noSub && noRsv && noX && noY) (.fbrd (zext16 f.addr))
  | 9 => whenZero (noSub && noRsv && noX && f.y.extractLsb' 8 8 == 0) (.fbwr (zext16 f.addr) (f.y.extractLsb' 0 8))
  | 10 => whenZero (noSub && noRsv && noX && noY) (.rdreg (zext16 f.addr))
  | _ => .error .reservedOpcode

/-- Decoding is total: "every 64-bit word is either exactly one row of rule R106 or illegal" (30_encoding.md R116). -/
def decode (w : CommandWord) : Except Illegal Instr := decodeFields (fieldsOf w)

/-- The instruction the decoder reads from a command word given as a number whose bits from `nbits` up are 0. A
command word arrives whole on the command port (20_memory.md R79), so there are no bytes to lay out. -/
def decodeTableWord (nbits w : Nat) : Option Instr :=
  match decode (BitVec.ofNat 64 (w % 2 ^ nbits)) with
  | .ok i => some i
  | .error _ => none

/-- The fields of the command word of an instruction (30_encoding.md R103 to R105). -/
def encodeFields : Instr → CommandFields
  | .nop => ⟨0x0, 0, 0, 0, 0, 0⟩
  | .init rst => ⟨0x1, (BitVec.ofBool rst).setWidth 4, 0, 0, 0, 0⟩
  | .rot r => ⟨0x2, (rotationCode r).setWidth 4, 0, 0, 0, 0⟩
  | .setpixClear x y => ⟨0x3, 0, 0, 0, coordField x, coordField y⟩
  | .setpixSet x y => ⟨0x3, 1, 0, 0, coordField x, coordField y⟩
  | .setpixInvert x y => ⟨0x3, 2, 0, 0, coordField x, coordField y⟩
  | .getpix x y => ⟨0x4, 0, 0, 0, coordField x, coordField y⟩
  | .clear => ⟨0x5, 0, 0, 0, 0, 0⟩
  | .mark x y => ⟨0x6, 0, 0, 0, coordField x, coordField y⟩
  | .flush => ⟨0x7, 0, 0, 0, 0, 0⟩
  | .fbrd addr => ⟨0x8, 0, 0, addrField addr, 0, 0⟩
  | .fbwr addr byte => ⟨0x9, 0, 0, addrField addr, 0, byte.setWidth 16⟩
  | .rdreg idx => ⟨0xA, 0, 0, addrField idx, 0, 0⟩

/-- The command word of an instruction. -/
def encode (i : Instr) : CommandWord := wordOf (encodeFields i)

/-- The bits of a command word that are a used field of the format of opcode `op`: OP for N; OP and SUB[0] or SUB[1:0]
for S; OP, X, Y, and SUB[1:0] for SETPIX, for P; OP, ADDR for A; OP, ADDR, DATA8 for AW (30_encoding.md R103). -/
def usedBits (op : Nat) : CommandWord :=
  match op with
  | 1 => 0xF100000000000000
  | 2 => 0xF300000000000000
  | 3 => 0xF3000000FFFFFFFF
  | 4 => 0xF0000000FFFFFFFF
  | 6 => 0xF0000000FFFFFFFF
  | 8 => 0xF000FFFF00000000
  | 9 => 0xF000FFFF000000FF
  | 10 => 0xF000FFFF00000000
  | _ => 0xF000000000000000

/-- The rows of the match and mask table (30_encoding.md R106), one for each constructor of `Instr`. -/
inductive OpcodeRow where
  | nop | init | rot | setpixClear | setpixSet | setpixInvert | getpix | clear | mark | flush | fbrd | fbwr | rdreg
  deriving DecidableEq, Repr

/-- The row of an instruction. -/
def Instr.row : Instr → OpcodeRow
  | .nop => .nop
  | .init _ => .init
  | .rot _ => .rot
  | .setpixClear _ _ => .setpixClear
  | .setpixSet _ _ => .setpixSet
  | .setpixInvert _ _ => .setpixInvert
  | .getpix _ _ => .getpix
  | .clear => .clear
  | .mark _ _ => .mark
  | .flush => .flush
  | .fbrd _ => .fbrd
  | .fbwr _ _ => .fbwr
  | .rdreg _ => .rdreg

/-- The column "match" of 30_encoding.md R106. -/
def OpcodeRow.matchBits : OpcodeRow → CommandWord
  | .nop => 0x0000000000000000
  | .init => 0x1000000000000000
  | .rot => 0x2000000000000000
  | .setpixClear => 0x3000000000000000
  | .setpixSet => 0x3100000000000000
  | .setpixInvert => 0x3200000000000000
  | .getpix => 0x4000000000000000
  | .clear => 0x5000000000000000
  | .mark => 0x6000000000000000
  | .flush => 0x7000000000000000
  | .fbrd => 0x8000000000000000
  | .fbwr => 0x9000000000000000
  | .rdreg => 0xA000000000000000

/-- The column "mask" of 30_encoding.md R106. -/
def OpcodeRow.maskBits : OpcodeRow → CommandWord
  | .nop => 0xFFFFFFFFFFFFFFFF
  | .init => 0xFEFFFFFFFFFFFFFF
  | .rot => 0xFCFFFFFFFFFFFFFF
  | .setpixClear => 0xFFFFFFFF00000000
  | .setpixSet => 0xFFFFFFFF00000000
  | .setpixInvert => 0xFFFFFFFF00000000
  | .getpix => 0xFFFFFFFF00000000
  | .clear => 0xFFFFFFFFFFFFFFFF
  | .mark => 0xFFFFFFFF00000000
  | .flush => 0xFFFFFFFFFFFFFFFF
  | .fbrd => 0xFFFF0000FFFFFFFF
  | .fbwr => 0xFFFF0000FFFFFF00
  | .rdreg => 0xFFFF0000FFFFFFFF

/-- "a word w is the command iff `w & mask == match`" (30_encoding.md R106). -/
abbrev OpcodeRow.Matches (r : OpcodeRow) (w : CommandWord) : Prop := w &&& r.maskBits = r.matchBits

end Sys2Proof
end

