-- ==== Sys2Proof/Config.lean ====
section
/-! DEFINITION. What a build of the block fixes (00_scope.md R8 to R11), the sentinel constants (R14), and the free
values: constants without a body, of which nothing can be proved. -/

namespace Sys2Proof

/-- The positions of the flush state machine (10_state.md R45). -/
inductive Phase where
  /-- the next transaction is the page-select transaction of page FP -/
  | select
  /-- the next transaction is a data chunk from PTR -/
  | data
  /-- all pages sent; the next step completes the FLUSH -/
  | done
  deriving DecidableEq, Repr, Inhabited

/-- The constants of one build: the physical geometry W and H (00_scope.md R8), COL_OFFSET (R10), CMD_PREFIX and
DATA_PREFIX (R11). The proof fields are the ranges the spec admits, so an inadmissible build cannot be written. -/
structure Build where
  /-- W, the columns -/
  w : Nat
  /-- H, the rows -/
  h : Nat
  /-- COL_OFFSET, added to the starting column of the page-select command -/
  colOffset : Nat
  /-- CMD_PREFIX, the discriminator byte of a command transaction -/
  cmdPrefix : Byte
  /-- DATA_PREFIX, the discriminator byte of a data transaction -/
  dataPrefix : Byte
  w_range : 1 ≤ w ∧ w ≤ 256
  h_range : 1 ≤ h ∧ h ≤ 128
  colOffset_range : colOffset ≤ 256 - w
  deriving DecidableEq, Repr

/-- The build of State.reset. DESIGN CHOICE, unsafe (log 3): the spec leaves W and H to the build; 128 by 64 is the
one geometry the source names (00_scope.md R8). COL_OFFSET and the prefix bytes are the spec's defaults (R10, R11). -/
def Config.defaultBuild : Build where
  w := 128
  h := 64
  colOffset := 0
  cmdPrefix := 0x00
  dataPrefix := 0x40
  w_range := by decide
  h_range := by decide
  colOffset_range := by decide

/-- SENT_LO, "larger than any valid coordinate" (00_scope.md R14). -/
def Config.sentLo : Half := 32767#16

/-- SENT_HI, -1 as 16-bit two's complement, "smaller than any valid coordinate" (00_scope.md R14). -/
def Config.sentHi : Half := 0xFFFF#16

/-! The flush working registers are "unspecified" while BUSY = 0 (10_state.md R43). Free values (log 6, safe): the
argument is State's counter `draws`. -/

/-- CMAX once a FLUSH has ended. -/
opaque Config.freeCmax : Nat → BitVec 16
/-- FP once a FLUSH has ended. -/
opaque Config.freeFp : Nat → BitVec 5
/-- LP once a FLUSH has ended. -/
opaque Config.freeLp : Nat → BitVec 5
/-- CS once a FLUSH has ended. -/
opaque Config.freeCs : Nat → BitVec 8
/-- CE once a FLUSH has ended. -/
opaque Config.freeCe : Nat → BitVec 8
/-- PTR once a FLUSH has ended. -/
opaque Config.freePtr : Nat → BitVec 13
/-- REM once a FLUSH has ended. -/
opaque Config.freeRem : Nat → BitVec 9
/-- PHASE once a FLUSH has ended. -/
opaque Config.freePhase : Nat → Phase

end Sys2Proof
end

