-- ==== Sys2Proof/Machine/State.lean ====
section
/-! DEFINITION. The state of the block (10_state.md R30), the inputs it takes and the events it puts out, the faults
and refusals of a step, and the state after reset (10_state.md R47). -/

namespace Sys2Proof.Machine

/-- LIFE (10_state.md R33). The 2-bit code 3 "is never taken". -/
inductive Life where
  | uninit
  | ready
  | failed
  deriving DecidableEq, Repr

/-- INIT_ERR (10_state.md R34). The 2-bit code 3 "is never taken". -/
inductive InitErr where
  | none
  | allocation
  | busInit
  deriving DecidableEq, Repr

/-- The dirty rectangle DX1, DY1, DX2, DY2: four 16-bit two's complement registers (10_state.md R37). -/
structure Dirty where
  dx1 : Half
  dy1 : Half
  dx2 : Half
  dy2 : Half
  deriving DecidableEq, Repr

/-- The sentinel state, the only representation of the empty region (10_state.md R37, 42_dirty.md R197). -/
def Dirty.sentinel : Dirty := ⟨Config.sentLo, Config.sentLo, Config.sentHi, Config.sentHi⟩

/-- The six sticky fault bits of STATUS (10_state.md R40). -/
structure Sticky where
  fIll : Bool
  fNrdy : Bool
  fBusy : Bool
  fAddr : Bool
  fXport : Bool
  fReinit : Bool
  deriving DecidableEq, Repr

/-- The flush working registers (10_state.md R43 to R45). -/
structure Working where
  /-- the position of the flush state machine -/
  phase : Phase
  /-- the current page -/
  fp : BitVec 5
  /-- the exclusive last page -/
  lp : BitVec 5
  /-- col_start -/
  cs : BitVec 8
  /-- col_end -/
  ce : BitVec 8
  /-- the framebuffer address of the next data byte -/
  ptr : BitVec 13
  /-- the bytes of the current page not yet sent -/
  rem : BitVec 9
  /-- the chunk payload limit, MAXBUF - 1 -/
  cmax : BitVec 16
  deriving DecidableEq, Repr

/-- What XPORT shows the block: XPORT_READY and MAXBUF (00_scope.md R12, 10_state.md R46). -/
structure Xport where
  ready : Bool
  maxbuf : BitVec 16
  deriving DecidableEq, Repr

/-- The kind of a transaction (00_scope.md R20). -/
inductive TransactionKind where
  /-- through the Device Command Layer -/
  | cmd
  /-- through the transport's prepended write -/
  | data
  deriving DecidableEq, Repr

/-- One transfer handed to XPORT: "a discriminator byte followed by a payload" (00_scope.md R20, 43_flush.md R220). -/
structure Transaction where
  kind : TransactionKind
  discriminator : Byte
  payload : List Byte
  deriving DecidableEq, Repr

/-- What happens next outside SEQ (00_scope.md R4). The model's own form (DESIGN CHOICE, log 1). -/
inductive Input where
  /-- HOST issues a command word (30_encoding.md R100) -/
  | command (w : CommandWord)
  /-- XPORT answers the transaction it was handed (60_exceptions.md R291) -/
  | answer (ok : Bool)
  /-- nothing arrives during one SEQ step -/
  | quiet
  /-- XPORT_READY and MAXBUF change (10_state.md R46) -/
  | transport (ready : Bool) (maxbuf : BitVec 16)
  /-- ALLOC_OK and BUS_OK change (00_scope.md R13) -/
  | environment (allocOk busOk : Bool)
  /-- the reset input (70_reset_and_hazards.md R300) -/
  | reset
  deriving DecidableEq, Repr

/-- What the block puts out, in order. -/
inductive Event where
  /-- a response word (30_encoding.md R110) -/
  | response (word : ResponseWord)
  /-- a transaction with XPORT's answer (43_flush.md R220) -/
  | transaction (t : Transaction) (ok : Bool)
  /-- the one-shot EXT_RST_REQ (44_control.md R252) -/
  | extRstReq
  /-- a transaction that was with XPORT, unanswered, when reset came: it "may or may not have been delivered"
  (70_reset_and_hazards.md R300) -/
  | abandoned (t : Transaction)
  deriving DecidableEq, Repr

/-- The framebuffer: (address, byte) pairs, addresses strictly rising, no byte equal to what an unlisted address
reads as (`Memory.wf`). -/
abbrev Memory := List Host.Cell

/-- What an unlisted address reads as. After INIT every byte is 0x00 (44_control.md R251). Before INIT the contents are
unspecified (20_memory.md R72): reading 0x00 then is a DESIGN CHOICE, unsafe in principle, and no command can observe
it (log 4). -/
def Memory.unlisted : Byte := 0x00#8

/-- The canonical form of the framebuffer. -/
abbrev Memory.wf (m : Memory) : Prop :=
  m.Pairwise (fun c d => c.1 < d.1) ∧ ∀ c ∈ m, c.2 ≠ Memory.unlisted

/-- The state of the block with what the other agents show it. -/
structure State where
  /-- the constants of the build (00_scope.md R8 to R11); no step changes them (log 3) -/
  build : Build
  /-- LIFE (10_state.md R33) -/
  life : Life
  /-- INIT_ERR (10_state.md R34) -/
  initErr : InitErr
  /-- ROT (10_state.md R35) -/
  rot : Rotation
  /-- DX1, DY1, DX2, DY2 (10_state.md R37) -/
  dirty : Dirty
  /-- LFAIL (10_state.md R41) -/
  lfail : Bool
  /-- BUSY (10_state.md R42) -/
  busy : Bool
  /-- F_ILL, F_NRDY, F_BUSY, F_ADDR, F_XPORT, F_REINIT (10_state.md R40) -/
  sticky : Sticky
  /-- PHASE, FP, LP, CS, CE, PTR, REM, CMAX (10_state.md R44, R45) -/
  working : Working
  /-- FB (20_memory.md R70) -/
  fb : Memory
  /-- XPORT_READY and MAXBUF (10_state.md R46) -/
  xport : Xport
  /-- ALLOC_OK (00_scope.md R13) -/
  allocOk : Bool
  /-- BUS_OK (00_scope.md R13) -/
  busOk : Bool
  /-- what happens next outside SEQ, oldest first (the model's own, log 1) -/
  inputs : List Input
  /-- what the block has put out, oldest first (the model's own, log 2) -/
  events : List Event
  /-- numbers the free values (the model's own, log 6) -/
  draws : Nat
  deriving DecidableEq, Repr

/-- Why a step stops. -/
inductive Fault where
  /-- MemRead or MemWrite outside addresses 0 to FBSIZE - 1, where 20_memory.md R71 gives them no meaning. Raised by
  `flushStep` alone, in a state whose working registers are outside the ranges of 10_state.md R44. Safe: no state that
  meets `Inv` steps there (log 13). -/
  | fbOutOfRange
  deriving DecidableEq, Repr

/-- Why a step has no meaning. -/
inductive Refusal where
  /-- An instruction whose arm of `exec` has no meaning yet. No arm raises it. Safe. -/
  | notModelled (mnemonic : String)
  deriving DecidableEq, Repr

/-- The outcome of one step. -/
abbrev Result := Host.Outcome State Fault Refusal

/-- After reset (10_state.md R47). The spec gives no reset value for `working` (DESIGN CHOICE, log 5), `fb` (DESIGN
CHOICE, log 4), the build (DESIGN CHOICE, log 3) and the inputs `xport`, `allocOk`, `busOk` (DESIGN CHOICE, log 7). -/
def State.reset : State where
  build := Config.defaultBuild
  life := .uninit
  initErr := .none
  rot := .deg0
  dirty := Dirty.sentinel
  lfail := false
  busy := false
  sticky := ⟨false, false, false, false, false, false⟩
  working := ⟨.select, 0, 0, 0, 0, 0, 0, 0⟩
  fb := []
  xport := ⟨true, 32⟩
  allocOk := true
  busOk := true
  inputs := []
  events := []
  draws := 0

end Sys2Proof.Machine
end

