-- ==== Sys2Proof/Machine/Tracker.lean ====
section
/-! DEFINITION. The micro-operations of the dirty-region tracker (42_dirty.md R190 to R195). -/

namespace Sys2Proof.Machine

/-- The lesser of two registers as signed 16-bit values. -/
def signedMin (a b : Half) : Half := if a.toInt ≤ b.toInt then a else b

/-- The greater of two registers as signed 16-bit values. -/
def signedMax (a b : Half) : Half := if a.toInt ≤ b.toInt then b else a

/-- `markDirty(x, y)`: widens the rectangle to include the physical point (x, y) (42_dirty.md R190). -/
def markDirty (x y : Int) (d : Dirty) : Dirty where
  dx1 := signedMin d.dx1 (BitVec.ofInt 16 x)
  dy1 := signedMin d.dy1 (BitVec.ofInt 16 y)
  dx2 := signedMax d.dx2 (BitVec.ofInt 16 x)
  dy2 := signedMax d.dy2 (BitVec.ofInt 16 y)

/-- `dirtyEmpty()`: "true iff `x1 > x2` or `y1 > y2`", signed (42_dirty.md R191). -/
def dirtyEmpty (d : Dirty) : Bool := decide (d.dx1.toInt > d.dx2.toInt ∨ d.dy1.toInt > d.dy2.toInt)

/-- `dirtyReset()`: the sentinel state (42_dirty.md R192). -/
def dirtyReset : Dirty := Dirty.sentinel

/-- `dirtyFull()`: the full rectangle (42_dirty.md R195). -/
def dirtyFull (b : Build) : Dirty where
  dx1 := 0
  dy1 := 0
  dx2 := BitVec.ofNat 16 (b.w - 1)
  dy2 := BitVec.ofNat 16 (b.h - 1)

end Sys2Proof.Machine
end

