-- ==== Sys2Proof/Machine/Flags.lean ====
section
/-! DEFINITION. The status codes (60_exceptions.md R271), the sticky fault bits and the STATUS view
(10_state.md R40). -/

namespace Sys2Proof.Machine

/-- The status codes of a response (60_exceptions.md R271). -/
inductive Code where
  | ok | errIllegal | errNotReady | errBusy | errAddr | errXport | errReinit | errAlloc | errBusInit | errXfer
  deriving DecidableEq, Repr

/-- The CODE byte (60_exceptions.md R271). -/
def codeByte : Code → Byte
  | .ok => 0x00
  | .errIllegal => 0x01
  | .errNotReady => 0x02
  | .errBusy => 0x03
  | .errAddr => 0x04
  | .errXport => 0x05
  | .errReinit => 0x06
  | .errAlloc => 0x07
  | .errBusInit => 0x08
  | .errXfer => 0x09

/-- The six faults (60_exceptions.md R276 to R281), each with its sticky bit. -/
inductive StickyBit where
  | fIll | fNrdy | fBusy | fAddr | fXport | fReinit
  deriving DecidableEq, Repr

/-- The response code of a fault (60_exceptions.md R271). -/
def faultCode : StickyBit → Code
  | .fIll => .errIllegal
  | .fNrdy => .errNotReady
  | .fBusy => .errBusy
  | .fAddr => .errAddr
  | .fXport => .errXport
  | .fReinit => .errReinit

/-- Sets one sticky bit and leaves the others (60_exceptions.md R275). -/
def setSticky (f : StickyBit) (k : Sticky) : Sticky :=
  match f with
  | .fIll => { k with fIll := true }
  | .fNrdy => { k with fNrdy := true }
  | .fBusy => { k with fBusy := true }
  | .fAddr => { k with fAddr := true }
  | .fXport => { k with fXport := true }
  | .fReinit => { k with fReinit := true }

/-- One sticky bit. -/
def stickyBit (f : StickyBit) (k : Sticky) : Bool :=
  match f with
  | .fIll => k.fIll
  | .fNrdy => k.fNrdy
  | .fBusy => k.fBusy
  | .fAddr => k.fAddr
  | .fXport => k.fXport
  | .fReinit => k.fReinit

/-- The code of LIFE (10_state.md R33). -/
def lifeCode : Life → Nat
  | .uninit => 0
  | .ready => 1
  | .failed => 2

/-- The code of INIT_ERR (10_state.md R34). -/
def initErrCode : InitErr → Nat
  | .none => 0
  | .allocation => 1
  | .busInit => 2

/-- STATUS (10_state.md R40): each field's value at the weight of its lowest bit; bits 7, 14 and 15 read 0. DIRTY is
computed, `not dirtyEmpty()` (42_dirty.md R191). -/
def statusWord (s : State) : Half :=
  BitVec.ofNat 16
    (lifeCode s.life
      + s.busy.toNat * 2 ^ 2
      + (!dirtyEmpty s.dirty).toNat * 2 ^ 3
      + s.lfail.toNat * 2 ^ 4
      + initErrCode s.initErr * 2 ^ 5
      + s.sticky.fIll.toNat * 2 ^ 8
      + s.sticky.fNrdy.toNat * 2 ^ 9
      + s.sticky.fBusy.toNat * 2 ^ 10
      + s.sticky.fAddr.toNat * 2 ^ 11
      + s.sticky.fXport.toNat * 2 ^ 12
      + s.sticky.fReinit.toNat * 2 ^ 13)

end Sys2Proof.Machine
end

