-- ==== Sys2Proof/Machine/Ops.lean ====
section
/-! DEFINITION. The operations that every command shares: the framebuffer memory (20_memory.md), the response word
(30_encoding.md R110), raising a fault (60_exceptions.md R275) and the checks of a command in their order (R273). There
is no return from a fault (R287). -/

namespace Sys2Proof.Machine

/-- PAGES = ceil(H/8) (00_scope.md R9). -/
def pages (b : Build) : Nat := (b.h + 7) / 8

/-- FBSIZE = PAGES * W (00_scope.md R9). -/
def fbSize (b : Build) : Nat := pages b * b.w

/-- The byte at address `a`. -/
def Memory.read : Memory → Nat → Byte
  | [], _ => Memory.unlisted
  | (k, v) :: m, a => if a = k then v else Memory.read m a

/-- The entry `(a, v)` before `m`, or nothing where `v` is what an unlisted address reads as. -/
def Memory.entry (a : Nat) (v : Byte) (m : Memory) : Memory :=
  if v = Memory.unlisted then m else (a, v) :: m

/-- The memory with byte `v` at address `a`, in canonical form when `m` is. -/
def Memory.write : Memory → Nat → Byte → Memory
  | [], a, v => Memory.entry a v []
  | (k, u) :: m, a, v =>
    if a < k then Memory.entry a v ((k, u) :: m)
    else if a = k then Memory.entry a v m
    else (k, u) :: Memory.write m a v

/-- The memory with 0x00 at every address below `n`: `for a in 0 .. n - 1: MemWrite(a, 1, 0x00)` (41_pixel.md R167,
44_control.md R251). An unlisted address reads 0x00, so the entries below `n` go. -/
def Memory.zeroBelow (m : Memory) (n : Nat) : Memory := m.filter (fun c => n ≤ c.1)

/-- `MemRead(a, 1)`, defined only for 0 <= a < FBSIZE (20_memory.md R71). -/
def memRead (s : State) (a : Nat) : Option Byte :=
  if a < fbSize s.build then some (s.fb.read a) else none

/-- `MemWrite(a, 1, v)`, defined only for 0 <= a < FBSIZE (20_memory.md R71). -/
def memWrite (s : State) (a : Nat) (v : Byte) : Option State :=
  if a < fbSize s.build then some { s with fb := s.fb.write a v } else none

/-- The `n` bytes from address `a` up, in ascending order, each a MemRead. -/
def memReadRange (s : State) (a n : Nat) : Option (List Byte) :=
  if a + n ≤ fbSize s.build then some ((List.range n).map (fun k => s.fb.read (a + k))) else none

/-- `MemWrite(a, 1, 0x00)` for every framebuffer address (41_pixel.md R167, 44_control.md R251). -/
def clearFramebuffer (s : State) : State := { s with fb := s.fb.zeroBelow (fbSize s.build) }

/-- The response word: CODE [31:24], 0 [23:16], DATA [15:0] (30_encoding.md R110). -/
def responseWord (c : Code) (data : Half) : ResponseWord := codeByte c ++ (0x00#8) ++ data

/-- Puts an event out. -/
def emitEvent (e : Event) (s : State) : State := { s with events := s.events ++ [e] }

/-- `respond(code, data)` (30_encoding.md R110). -/
def respond (c : Code) (data : Half) (s : State) : State := emitEvent (.response (responseWord c data)) s

/-- `raise Fault(F)`: sets sticky bit F, responds with F's CODE and DATA = 0, and changes nothing else
(60_exceptions.md R275). -/
def raiseFault (f : StickyBit) (s : State) : State :=
  respond (faultCode f) 0 { s with sticky := setSticky f s.sticky }

/-- What a command needs of LIFE (60_exceptions.md R273, check 3). -/
inductive LifeNeed where
  /-- NOP, ROT: no requirement -/
  | any
  /-- INIT: LIFE = UNINIT, else F_REINIT -/
  | uninit
  /-- SETPIX, GETPIX, CLEAR, MARK, FLUSH, FBRD, FBWR: LIFE = READY, else F_NRDY -/
  | ready
  deriving DecidableEq, Repr

/-- Check 3 of 60_exceptions.md R273: the fault of a command whose lifecycle need is not met. -/
def lifeFault (need : LifeNeed) (life : Life) : Option StickyBit :=
  match need, life with
  | .any, _ => none
  | .uninit, .uninit => none
  | .uninit, _ => some .fReinit
  | .ready, .ready => none
  | .ready, _ => some .fNrdy

/-- Checks 2 and 3 of 60_exceptions.md R273, for every command but RDREG: the busy check, then the lifecycle check, then
the command's own rule. -/
def accept (need : LifeNeed) (s : State) (perform : State → Result) : Result :=
  if s.busy then .next (raiseFault .fBusy s)
  else
    match lifeFault need s.life with
    | some f => .next (raiseFault f s)
    | none => perform s

end Sys2Proof.Machine
end

