-- ==== Sys2Proof/Machine/Operands.lean ====
section
/-! DEFINITION. From logical coordinates to a byte and a bit of the framebuffer: the logical geometry (10_state.md R36),
the clip (40_transform.md R141), the transform (R143) and the pixel address (20_memory.md R73). -/

namespace Sys2Proof.Machine

/-- LW (10_state.md R36). -/
def logicalWidth (b : Build) : Rotation → Nat
  | .deg0 => b.w
  | .deg90 => b.h
  | .deg180 => b.w
  | .deg270 => b.h

/-- LH (10_state.md R36). -/
def logicalHeight (b : Build) : Rotation → Nat
  | .deg0 => b.h
  | .deg90 => b.w
  | .deg180 => b.h
  | .deg270 => b.w

/-- A logical coordinate is in range: `0 <= x < LW` and `0 <= y < LH` (40_transform.md R141). -/
abbrev InLogicalRange (b : Build) (r : Rotation) (x y : Int) : Prop :=
  0 ≤ x ∧ x < logicalWidth b r ∧ 0 ≤ y ∧ y < logicalHeight b r

/-- A physical point is in the buffer: `0 <= x < W` and `0 <= y < H` (20_memory.md R73, 42_dirty.md R193). -/
abbrev InPhysicalRange (b : Build) (x y : Int) : Prop :=
  0 ≤ x ∧ x < b.w ∧ 0 ≤ y ∧ y < b.h

/-- The transform `T(rot, x, y)` (40_transform.md R143). -/
def transform (b : Build) (r : Rotation) (x y : Int) : Int × Int :=
  match r with
  | .deg0 => (x, y)
  | .deg90 => (b.w - y - 1, x)
  | .deg180 => (b.w - x - 1, b.h - y - 1)
  | .deg270 => (y, b.h - x - 1)

/-- The inverse of T (40_transform.md R144). -/
def transformInverse (b : Build) (r : Rotation) (px py : Int) : Int × Int :=
  match r with
  | .deg0 => (px, py)
  | .deg90 => (py, b.w - px - 1)
  | .deg180 => (b.w - px - 1, b.h - py - 1)
  | .deg270 => (b.h - py - 1, px)

/-- `addr(px, py) = px + (py div 8) * W` (20_memory.md R73). -/
def pixelAddr (b : Build) (px py : Int) : Nat := (px + py / 8 * b.w).toNat

/-- The bit number `py mod 8` (20_memory.md R73). -/
def pixelBit (py : Int) : Nat := (py % 8).toNat

/-- The mask `1 << (py mod 8)`; the bit has weight 2^b (20_memory.md R73). -/
def pixelMask (py : Int) : Byte := 1#8 <<< pixelBit py

/-- The logical pixel's bit in the framebuffer (40_transform.md R145). -/
def pixelValue (b : Build) (r : Rotation) (m : Memory) (x y : Int) : Bool :=
  let p := transform b r x y
  (m.read (pixelAddr b p.1 p.2)).getLsbD (pixelBit p.2)

end Sys2Proof.Machine
end

