-- ==== Sys2Proof/Machine/Control.lean ====
section
/-! DEFINITION. The control commands NOP, INIT, RDREG (44_control.md) and ROT (40_transform.md R146). -/

namespace Sys2Proof.Machine

/-- NOP (44_control.md R250). -/
def execNop (s : State) : Result := accept .any s fun s => .next (respond .ok 0 s)

/-- ROT (40_transform.md R146). -/
def execRot (r : Rotation) (s : State) : Result :=
  accept .any s fun s => .next (respond .ok 0 { s with rot := r })

/-- EXT_RST_REQ, signalled when `rst` is 1 (44_control.md R252). -/
def signalReset (rst : Bool) (s : State) : State := if rst then emitEvent .extRstReq s else s

/-- The state INIT leaves before it signals and responds, when both environment inputs are 1 (44_control.md R251). -/
def initialised (s : State) : State :=
  { clearFramebuffer s with dirty := dirtyReset, life := .ready, initErr := .none }

/-- INIT (44_control.md R251). -/
def execInit (rst : Bool) (s : State) : Result :=
  accept .uninit s fun s =>
    if s.allocOk = false then .next (respond .errAlloc 0 { s with life := .failed, initErr := .allocation })
    else if s.busOk = false then .next (respond .errBusInit 0 { s with life := .failed, initErr := .busInit })
    else .next (respond .ok 0 (signalReset rst (initialised s)))

/-- The code of ROT (10_state.md R35). -/
def rotationValue (r : Rotation) : Half := (rotationCode r).setWidth 16

/-- The RDREG register map (44_control.md R256). -/
def registerValue (s : State) (idx : Nat) : Option Half :=
  match idx with
  | 0 => some (statusWord s)
  | 1 => some (rotationValue s.rot)
  | 2 => some s.dirty.dx1
  | 3 => some s.dirty.dy1
  | 4 => some s.dirty.dx2
  | 5 => some s.dirty.dy2
  | 6 => some (BitVec.ofNat 16 s.build.w)
  | 7 => some (BitVec.ofNat 16 s.build.h)
  | 8 => some (BitVec.ofNat 16 (logicalWidth s.build s.rot))
  | 9 => some (BitVec.ofNat 16 (logicalHeight s.build s.rot))
  | 10 => some (BitVec.ofNat 16 (pages s.build))
  | 11 => some (BitVec.ofNat 16 (fbSize s.build))
  | _ => none

/-- RDREG (44_control.md R255): accepted in every LIFE state and while BUSY = 1. -/
def execRdreg (idx : Nat) (s : State) : Result :=
  match registerValue s idx with
  | none => .next (raiseFault .fIll s)
  | some v => .next (respond .ok v s)

end Sys2Proof.Machine
end

