-- ==== Sys2Proof/Machine/Flush.lean ====
section
/-! DEFINITION. FLUSH: the accepting step (43_flush.md R210 to R213) and the flush state machine (R225), with the
transactions it hands to XPORT (R215, R218, R220). -/

namespace Sys2Proof.Machine

/-- `clamp(v, lo, hi) = min(max(v, lo), hi)` (00_scope.md R16). -/
def clamp (v lo hi : Int) : Int := min (max v lo) hi

/-- `col_start` or `col_end` of a dirty register (43_flush.md R213). -/
def clampColumn (b : Build) (d : Half) : Int := clamp d.toInt 0 (b.w - 1)

/-- SELECT if FP < LP else DONE (43_flush.md R210, R225). -/
def nextPhase (fp lp : BitVec 5) : Phase := if fp.toNat < lp.toNat then .select else .done

/-- The working registers the accepting step writes (43_flush.md R213); PTR and REM are left. -/
def flushSetup (s : State) : Working :=
  let fp := BitVec.ofInt 5 (s.dirty.dy1.toInt / 8)
  let lp := BitVec.ofInt 5 ((s.dirty.dy2.toInt + 8) / 8)
  { s.working with
    cmax := s.xport.maxbuf - 1
    fp := fp
    lp := lp
    cs := BitVec.ofInt 8 (clampColumn s.build s.dirty.dx1)
    ce := BitVec.ofInt 8 (clampColumn s.build s.dirty.dx2)
    phase := nextPhase fp lp }

/-- FLUSH, the accepting step (43_flush.md R210): the empty check (R211), the transport check (R212), the set-up
(R213). -/
def execFlush (s : State) : Result :=
  accept .ready s fun s =>
    if dirtyEmpty s.dirty then .next (respond .ok 0 { s with lfail := false })
    else if s.xport.ready = false ∨ s.xport.maxbuf.toNat < 4 then .next (raiseFault .fXport s)
    else .next { s with working := flushSetup s, busy := true }

/-- The page-select transaction of page `p` with encoded column `c`: the command bytes `{0xB0 | p, 0x10 | (c div 16),
c mod 16}` (43_flush.md R215; the codes are the spec's, from general knowledge, log 15). -/
def pageSelect (b : Build) (p c : Nat) : Transaction where
  kind := .cmd
  discriminator := b.cmdPrefix
  payload := [0xB0#8 ||| BitVec.ofNat 8 p, 0x10#8 ||| BitVec.ofNat 8 (c / 16), BitVec.ofNat 8 (c % 16)]

/-- A data transaction (43_flush.md R218, R220). -/
def dataChunk (b : Build) (bytes : List Byte) : Transaction where
  kind := .data
  discriminator := b.dataPrefix
  payload := bytes

/-- The bytes of a transaction on the wire: the discriminator, then the payload (43_flush.md R220). -/
def Transaction.wire (t : Transaction) : List Byte := t.discriminator :: t.payload

/-- The size of the next data chunk, `min(REM, CMAX)` (43_flush.md R218). -/
def chunkSize (w : Working) : Nat := min w.rem.toNat w.cmax.toNat

/-- The transaction that SEQ hands to XPORT in the present phase: none in DONE, and none where the chunk's bytes are
not all in FB. -/
def currentTransaction (s : State) : Option Transaction :=
  match s.working.phase with
  | .select => some (pageSelect s.build s.working.fp.toNat (s.working.cs.toNat + s.build.colOffset))
  | .data => (memReadRange s s.working.ptr.toNat (chunkSize s.working)).map (dataChunk s.build)
  | .done => none

/-- The working registers "are unspecified" once BUSY is 0 (10_state.md R43): free values. -/
def freeWorking (n : Nat) : Working where
  phase := Config.freePhase n
  fp := Config.freeFp n
  lp := Config.freeLp n
  cs := Config.freeCs n
  ce := Config.freeCe n
  ptr := Config.freePtr n
  rem := Config.freeRem n
  cmax := Config.freeCmax n

/-- BUSY <- 0; the working registers become unspecified (10_state.md R43, log 6). -/
def endFlush (s : State) : State :=
  { s with busy := false, working := freeWorking s.draws, draws := s.draws + 1 }

/-- Abort (43_flush.md R221, R225): LFAIL <- 1, BUSY <- 0, ERR_XFER; the dirty registers stay. -/
def abortFlush (s : State) : State := respond .errXfer 0 (endFlush { s with lfail := true })

/-- The DONE step (43_flush.md R222): dirtyReset, LFAIL <- 0, BUSY <- 0, OK. -/
def completeFlush (s : State) : State :=
  respond .ok 0 (endFlush { s with dirty := dirtyReset, lfail := false })

/-- NextPage (43_flush.md R225). -/
def nextPage (w : Working) : Working :=
  { w with fp := w.fp + 1, phase := nextPhase (w.fp + 1) w.lp }

/-- The working registers after an answered page-select (43_flush.md R225): PTR and REM of the page (R217), then the
data phase, or the next page where there is no byte to send (R224). -/
def afterSelect (b : Build) (w : Working) : Working :=
  let t := { w with
    ptr := BitVec.ofNat 13 (w.fp.toNat * b.w + w.cs.toNat)
    rem := BitVec.ofNat 9 (w.ce.toNat + 1 - w.cs.toNat) }
  if t.rem = 0 then nextPage t else { t with phase := .data }

/-- The working registers after an answered data chunk of `n` bytes (43_flush.md R218, R225). -/
def afterChunk (n : Nat) (w : Working) : Working :=
  let t := { w with ptr := w.ptr + BitVec.ofNat 13 n, rem := w.rem - BitVec.ofNat 9 n }
  if t.rem = 0 then nextPage t else t

/-- One step of the flush state machine (43_flush.md R225); `ok` is XPORT's answer to the transaction of the step, and
DONE has none. -/
def flushStep (ok : Bool) (s : State) : Result :=
  match s.working.phase, currentTransaction s with
  | .done, _ => .next (completeFlush s)
  | .select, none => .fault .fbOutOfRange
  | .select, some t =>
    let u := emitEvent (.transaction t ok) s
    if ok then .next { u with working := afterSelect s.build s.working } else .next (abortFlush u)
  | .data, none => .fault .fbOutOfRange
  | .data, some t =>
    let u := emitEvent (.transaction t ok) s
    if ok then .next { u with working := afterChunk (chunkSize s.working) s.working } else .next (abortFlush u)

end Sys2Proof.Machine
end

