-- ==== Sys2Proof/Machine/Pixel.lean ====
section
/-! DEFINITION. The pixel and framebuffer commands SETPIX, GETPIX, CLEAR, FBRD, FBWR (41_pixel.md) and MARK
(42_dirty.md R193). -/

namespace Sys2Proof.Machine

/-- The three pixel modes (30_encoding.md R105). -/
inductive PixelMode where
  | clear
  | set
  | invert
  deriving DecidableEq, Repr

/-- The byte SETPIX writes back for mask `m` and byte `v` (41_pixel.md R161). -/
def applyMode (mode : PixelMode) (m v : Byte) : Byte :=
  match mode with
  | .set => v ||| m
  | .clear => v &&& (0xFF#8 ^^^ m)
  | .invert => v ^^^ m

/-- SETPIX after its checks (41_pixel.md R161): clip, transform, read-modify-write, markDirty with the physical
point. -/
def setPixel (mode : PixelMode) (x y : Int) (s : State) : Result :=
  if InLogicalRange s.build s.rot x y then
    let p := transform s.build s.rot x y
    let a := pixelAddr s.build p.1 p.2
    match memRead s a with
    | none => .fault .fbOutOfRange
    | some v =>
      match memWrite s a (applyMode mode (pixelMask p.2) v) with
      | none => .fault .fbOutOfRange
      | some t => .next (respond .ok 0 { t with dirty := markDirty p.1 p.2 t.dirty })
  else .next (respond .ok 0 s)

/-- SETPIX x, y, CLEAR (41_pixel.md R161). -/
def execSetpixClear (x y : Int) (s : State) : Result := accept .ready s (setPixel .clear x y)

/-- SETPIX x, y, SET (41_pixel.md R161). -/
def execSetpixSet (x y : Int) (s : State) : Result := accept .ready s (setPixel .set x y)

/-- SETPIX x, y, INVERT (41_pixel.md R161). -/
def execSetpixInvert (x y : Int) (s : State) : Result := accept .ready s (setPixel .invert x y)

/-- GETPIX (41_pixel.md R165). -/
def execGetpix (x y : Int) (s : State) : Result :=
  accept .ready s fun s =>
    if InLogicalRange s.build s.rot x y then
      let p := transform s.build s.rot x y
      match memRead s (pixelAddr s.build p.1 p.2) with
      | none => .fault .fbOutOfRange
      | some v => .next (respond .ok (((v >>> pixelBit p.2) &&& 1#8).setWidth 16) s)
    else .next (respond .ok 0 s)

/-- CLEAR (41_pixel.md R167). -/
def execClear (s : State) : Result :=
  accept .ready s fun s => .next (respond .ok 0 { clearFramebuffer s with dirty := dirtyFull s.build })

/-- FBRD (41_pixel.md R172). -/
def execFbrd (addr : Nat) (s : State) : Result :=
  accept .ready s fun s =>
    if fbSize s.build ≤ addr then .next (raiseFault .fAddr s)
    else
      match memRead s addr with
      | none => .fault .fbOutOfRange
      | some v => .next (respond .ok (v.setWidth 16) s)

/-- FBWR (41_pixel.md R175). -/
def execFbwr (addr : Nat) (byte : Byte) (s : State) : Result :=
  accept .ready s fun s =>
    if fbSize s.build ≤ addr then .next (raiseFault .fAddr s)
    else
      match memWrite s addr byte with
      | none => .fault .fbOutOfRange
      | some t => .next (respond .ok 0 t)

/-- MARK (42_dirty.md R193), in physical coordinates. -/
def execMark (x y : Int) (s : State) : Result :=
  accept .ready s fun s =>
    if InPhysicalRange s.build x y then .next (respond .ok 0 { s with dirty := markDirty x y s.dirty })
    else .next (respond .ok 0 s)

end Sys2Proof.Machine
end

