-- ==== Sys2Proof/Machine/Dispatch.lean ====
section
/-! DEFINITION. exec: one arm for each instruction, each one call of its meaning. -/

namespace Sys2Proof.Machine

def exec (i : Instr) (s : State) : Host.Outcome State Fault Refusal :=
  match i with
  | .nop => Sys2Proof.Machine.execNop s
  | .init rst => Sys2Proof.Machine.execInit rst s
  | .rot r => Sys2Proof.Machine.execRot r s
  | .setpixClear x y => Sys2Proof.Machine.execSetpixClear x y s
  | .setpixSet x y => Sys2Proof.Machine.execSetpixSet x y s
  | .setpixInvert x y => Sys2Proof.Machine.execSetpixInvert x y s
  | .getpix x y => Sys2Proof.Machine.execGetpix x y s
  | .clear => Sys2Proof.Machine.execClear s
  | .mark x y => Sys2Proof.Machine.execMark x y s
  | .flush => Sys2Proof.Machine.execFlush s
  | .fbrd addr => Sys2Proof.Machine.execFbrd addr s
  | .fbwr addr byte => Sys2Proof.Machine.execFbwr addr byte s
  | .rdreg idx => Sys2Proof.Machine.execRdreg idx s

end Sys2Proof.Machine
end

