-- ==== Sys2Proof/Machine/Port.lean ====
section
/-! DEFINITION. What each input does: the command port (30_encoding.md R100), XPORT's answer (60_exceptions.md R291), a
step in which nothing arrives, the changes of XPORT and environment, and the reset input (70_reset_and_hazards.md
R300). -/

namespace Sys2Proof.Machine

/-- SEQ takes a command word (60_exceptions.md R273): check 1, an illegal word, then the command. -/
def acceptWord (w : CommandWord) (s : State) : Result :=
  match decode w with
  | .error _ => .next (raiseFault .fIll s)
  | .ok i => exec i s

/-- A transaction is with XPORT, unanswered: BUSY = 1 and PHASE is not DONE (43_flush.md R220). -/
def awaitsAnswer (s : State) : Bool := s.busy && s.working.phase != .done

/-- Nothing arrives: SEQ completes a FLUSH in DONE (43_flush.md R222); otherwise it waits, for a command
(70_reset_and_hazards.md R301) or for XPORT (43_flush.md R227). -/
def seqAlone (s : State) : Result :=
  if s.busy && s.working.phase == .done then flushStep true s else .next s

/-- XPORT's answer ends the step of the transaction it answers (43_flush.md R220, R225). With no transaction handed over
it answers nothing, and SEQ goes on alone (log 9). -/
def takeAnswer (ok : Bool) (s : State) : Result := if awaitsAnswer s then flushStep ok s else seqAlone s

/-- The record of a transaction that reset takes from a running FLUSH (70_reset_and_hazards.md R300). -/
def abandonedEvents (s : State) : List Event :=
  if s.busy then
    match currentTransaction s with
    | some t => [.abandoned t]
    | none => []
  else []

/-- The reset input (70_reset_and_hazards.md R300): every register at its reset value (10_state.md R47), a running FLUSH
abandoned without a response. The build, the other agents and what was put out before stay (log 11). -/
def resetBlock (s : State) : State :=
  { State.reset with
    build := s.build
    xport := s.xport
    allocOk := s.allocOk
    busOk := s.busOk
    inputs := s.inputs
    events := s.events ++ abandonedEvents s
    draws := s.draws }

/-- What one input does. -/
def takeInput (i : Input) (s : State) : Result :=
  match i with
  | .command w => acceptWord w s
  | .answer ok => takeAnswer ok s
  | .quiet => seqAlone s
  | .transport ready maxbuf => .next { s with xport := ⟨ready, maxbuf⟩ }
  | .environment allocOk busOk => .next { s with allocOk := allocOk, busOk := busOk }
  | .reset => .next (resetBlock s)

end Sys2Proof.Machine
end

