-- ==== Sys2Proof/Machine/Step.lean ====
section
/-! DEFINITION. One step: the oldest input is taken, or, with none, SEQ goes on alone (log 1). -/

namespace Sys2Proof.Machine

/-- One step of the block. -/
def step (s : State) : Host.Outcome State Fault Refusal :=
  match s.inputs with
  | [] => seqAlone s
  | i :: rest => takeInput i { s with inputs := rest }

/-- `s` with the command word of the low `nbits` bits of `w` next on the command port: HOST issues it (30_encoding.md
R100). The block has no instruction memory (20_memory.md R88); this stands for HOST (log 1). -/
def State.withFetchWord (s : State) (nbits w : Nat) : State :=
  { s with inputs := .command (BitVec.ofNat 64 (w % 2 ^ nbits)) :: s.inputs }

end Sys2Proof.Machine
end

