-- ==== Sys2Proof/Machine/Assembly.lean ====
section
/-! DEFINITION. The assembly syntax of the spec (30_encoding.md R117) and its pseudo-instructions (R118): from the
characters of one line to the instruction, rejecting by name. No step uses it. -/

namespace Sys2Proof.Machine

/-- Why a line is no command. -/
inductive AsmError where
  /-- the line is not of a form of 30_encoding.md R117 or R118 -/
  | badLine
  /-- "An operand out of its field's range ... is an assembly error, not a command" (R117) -/
  | operandOutOfRange
  deriving DecidableEq, Repr

/-- The value of a digit of base `base`, 10 or 16. -/
def digitValue (base : Nat) (c : Char) : Option Nat :=
  let n := c.toNat
  if 48 ≤ n ∧ n ≤ 57 then some (n - 48)
  else if base = 16 ∧ 97 ≤ n ∧ n ≤ 102 then some (n - 87)
  else if base = 16 ∧ 65 ≤ n ∧ n ≤ 70 then some (n - 55)
  else none

/-- The number that the digits `cs` write after `acc`. -/
def digitsValue (base : Nat) : Nat → List Char → Option Nat
  | acc, [] => some acc
  | acc, c :: cs =>
    match digitValue base c with
    | some d => digitsValue base (acc * base + d) cs
    | none => none

/-- A natural number in decimal or `0x` hex (30_encoding.md R117). -/
def parseNat : List Char → Option Nat
  | [] => none
  | ['0', 'x'] => none
  | '0' :: 'x' :: c :: cs => digitsValue 16 0 (c :: cs)
  | c :: cs => digitsValue 10 0 (c :: cs)

/-- An integer: "coordinates may be negative" (30_encoding.md R117). -/
def parseInt : List Char → Option Int
  | '-' :: cs => (parseNat cs).map fun n => -(n : Int)
  | cs => (parseNat cs).map fun n => (n : Int)

/-- `cs` without the spaces at its front. -/
def dropSpaces : List Char → List Char
  | ' ' :: cs => dropSpaces cs
  | cs => cs

/-- `cs` without the spaces at either end. -/
def trimSpaces (cs : List Char) : List Char := (dropSpaces (dropSpaces cs).reverse).reverse

/-- The pieces of a list between the separators `sep`. -/
def splitAtChar (sep : Char) : List Char → List (List Char)
  | [] => [[]]
  | c :: cs =>
    match splitAtChar sep cs with
    | [] => [[c]]
    | p :: ps => if c = sep then [] :: p :: ps else (c :: p) :: ps

/-- The mnemonic of a line, up to its first space, and what follows. -/
def splitMnemonic : List Char → List Char × List Char
  | [] => ([], [])
  | ' ' :: cs => ([], cs)
  | c :: cs => (c :: (splitMnemonic cs).1, (splitMnemonic cs).2)

/-- The operands after the mnemonic, "separated by commas" (30_encoding.md R117). -/
def splitOperands (cs : List Char) : List (List Char) :=
  if trimSpaces cs = [] then [] else (splitAtChar ',' cs).map trimSpaces

/-- The rotation operand of ROT: a number, or a number of degrees (30_encoding.md R117). -/
def parseRotation (cs : List Char) : Except AsmError Rotation :=
  if cs = ['0', 'd', 'e', 'g'] then .ok .deg0
  else if cs = ['9', '0', 'd', 'e', 'g'] then .ok .deg90
  else if cs = ['1', '8', '0', 'd', 'e', 'g'] then .ok .deg180
  else if cs = ['2', '7', '0', 'd', 'e', 'g'] then .ok .deg270
  else
    match parseNat cs with
    | some n => if n < 4 then .ok (rotationOfCode (BitVec.ofNat 2 n)) else .error .operandOutOfRange
    | none => .error .badLine

/-- The register names (44_control.md R256), in the order of their indices. -/
def registerNames : List (List Char) :=
  [['S', 'T', 'A', 'T', 'U', 'S'], ['R', 'O', 'T'], ['D', 'X', '1'], ['D', 'Y', '1'], ['D', 'X', '2'],
   ['D', 'Y', '2'], ['W', 'I', 'D', 'T', 'H'], ['H', 'E', 'I', 'G', 'H', 'T'], ['L', 'W', 'I', 'D', 'T', 'H'],
   ['L', 'H', 'E', 'I', 'G', 'H', 'T'], ['P', 'A', 'G', 'E', 'S'], ['F', 'B', 'S', 'I', 'Z', 'E']]

/-- The register operand of RDREG: an index or a name (30_encoding.md R117). -/
def parseRegister (cs : List Char) : Option Nat :=
  match registerNames.findIdx? (· = cs) with
  | some k => some k
  | none => parseNat cs

/-- `i` when its operands fit their fields (30_encoding.md R117). -/
def inRange (i : Instr) : Except AsmError Instr := if i.fits then .ok i else .error .operandOutOfRange

/-- A command of two coordinates. -/
def assemblePoint (make : Int → Int → Instr) (x y : List Char) : Except AsmError Instr :=
  match parseInt x, parseInt y with
  | some x, some y => inRange (make x y)
  | _, _ => .error .badLine

/-- SETPIX by the name of its mode. -/
def assembleSetpix (x y mode : List Char) : Except AsmError Instr :=
  if mode = ['S', 'E', 'T'] then assemblePoint .setpixSet x y
  else if mode = ['C', 'L', 'E', 'A', 'R'] then assemblePoint .setpixClear x y
  else if mode = ['I', 'N', 'V', 'E', 'R', 'T'] then assemblePoint .setpixInvert x y
  else .error .badLine

/-- FBWR addr, byte, with the byte in 0 to 255 (30_encoding.md R117). -/
def assembleFbwr (addr byte : List Char) : Except AsmError Instr :=
  match parseNat addr, parseNat byte with
  | some a, some v => if v < 256 then inRange (.fbwr a (BitVec.ofNat 8 v)) else .error .operandOutOfRange
  | _, _ => .error .badLine

/-- A command with no operand. -/
def assembleBare (mnemonic : List Char) : Except AsmError Instr :=
  if mnemonic = ['N', 'O', 'P'] then .ok .nop
  else if mnemonic = ['I', 'N', 'I', 'T'] then .ok (.init false)
  else if mnemonic = ['C', 'L', 'E', 'A', 'R'] then .ok .clear
  else if mnemonic = ['F', 'L', 'U', 'S', 'H'] then .ok .flush
  else .error .badLine

/-- A command with one operand. -/
def assembleUnary (mnemonic a : List Char) : Except AsmError Instr :=
  if mnemonic = ['I', 'N', 'I', 'T'] then
    if a = ['r', 'e', 's', 'e', 't'] then .ok (.init true) else .error .badLine
  else if mnemonic = ['R', 'O', 'T'] then
    match parseRotation a with
    | .ok r => .ok (.rot r)
    | .error e => .error e
  else if mnemonic = ['F', 'B', 'R', 'D'] then
    match parseNat a with
    | some n => inRange (.fbrd n)
    | none => .error .badLine
  else if mnemonic = ['R', 'D', 'R', 'E', 'G'] then
    match parseRegister a with
    | some n => inRange (.rdreg n)
    | none => .error .badLine
  else .error .badLine

/-- A command with two operands; PIXON, PIXOFF and PIXINV expand to SETPIX (30_encoding.md R118). -/
def assembleBinary (mnemonic a b : List Char) : Except AsmError Instr :=
  if mnemonic = ['G', 'E', 'T', 'P', 'I', 'X'] then assemblePoint .getpix a b
  else if mnemonic = ['M', 'A', 'R', 'K'] then assemblePoint .mark a b
  else if mnemonic = ['F', 'B', 'W', 'R'] then assembleFbwr a b
  else if mnemonic = ['P', 'I', 'X', 'O', 'N'] then assembleSetpix a b ['S', 'E', 'T']
  else if mnemonic = ['P', 'I', 'X', 'O', 'F', 'F'] then assembleSetpix a b ['C', 'L', 'E', 'A', 'R']
  else if mnemonic = ['P', 'I', 'X', 'I', 'N', 'V'] then assembleSetpix a b ['I', 'N', 'V', 'E', 'R', 'T']
  else .error .badLine

/-- A command with three operands. -/
def assembleTernary (mnemonic a b c : List Char) : Except AsmError Instr :=
  if mnemonic = ['S', 'E', 'T', 'P', 'I', 'X'] then assembleSetpix a b c else .error .badLine

/-- A mnemonic with its operands. -/
def assembleParts (mnemonic : List Char) (operands : List (List Char)) : Except AsmError Instr :=
  match operands with
  | [] => assembleBare mnemonic
  | [a] => assembleUnary mnemonic a
  | [a, b] => assembleBinary mnemonic a b
  | [a, b, c] => assembleTernary mnemonic a b c
  | _ => .error .badLine

/-- The instruction of one line of assembly (30_encoding.md R117, R118). -/
def assembleLine (line : List Char) : Except AsmError Instr :=
  let parts := splitMnemonic (trimSpaces line)
  assembleParts parts.1 (splitOperands parts.2)

end Sys2Proof.Machine
end

