-- ==== Sys2Proof/Machine/FlushSeq.lean ====
section
/-! DEFINITION. The transaction sequence of a FLUSH as "a pure function of the accepted state" (43_flush.md R226). The
step does not use it; statements compare the step with it. -/

namespace Sys2Proof.Machine

/-- first_page of a rectangle, DY1 div 8 (43_flush.md R213). -/
def firstPage (d : Dirty) : Nat := (d.dy1.toInt / 8).toNat

/-- The exclusive last_page of a rectangle, (DY2 + 8) div 8 (43_flush.md R213). -/
def lastPage (d : Dirty) : Nat := ((d.dy2.toInt + 8) / 8).toNat

/-- CS of a rectangle (43_flush.md R226). -/
def startColumn (b : Build) (d : Dirty) : Nat := (clampColumn b d.dx1).toNat

/-- CE of a rectangle (43_flush.md R226). -/
def endColumn (b : Build) (d : Dirty) : Nat := (clampColumn b d.dx2).toNat

/-- L = CE - CS + 1, the bytes of one page (43_flush.md R219, R226). -/
def pageBytes (b : Build) (d : Dirty) : Nat := endColumn b d + 1 - startColumn b d

/-- FB[a .. a + n - 1]. -/
def bytesAt (m : Memory) (a n : Nat) : List Byte := (List.range n).map fun k => m.read (a + k)

/-- ceil(L / CMAX) (00_scope.md R16, 43_flush.md R219). -/
def chunkCount (len cmax : Nat) : Nat := (len + cmax - 1) / cmax

/-- The data transactions of the `len` bytes from address `a`: chunk k is FB[a + k*CMAX .. a + min((k+1)*CMAX, L) - 1]
(43_flush.md R226). -/
def dataChunks (b : Build) (m : Memory) (a len cmax : Nat) : List Transaction :=
  (List.range (chunkCount len cmax)).map fun k =>
    dataChunk b (bytesAt m (a + k * cmax) (min ((k + 1) * cmax) len - k * cmax))

/-- The transactions of page `p`: its page-select, then its data chunks (43_flush.md R214, R226). -/
def pageTransactions (b : Build) (m : Memory) (cs len cmax p : Nat) : List Transaction :=
  pageSelect b p (cs + b.colOffset) :: dataChunks b m (p * b.w + cs) len cmax

/-- FlushSeq (43_flush.md R226): the pages from first_page up to last_page, exclusive, in ascending order. -/
def flushSeq (b : Build) (m : Memory) (d : Dirty) (cmax : Nat) : List Transaction :=
  (List.range' (firstPage d) (lastPage d - firstPage d)).flatMap
    (pageTransactions b m (startColumn b d) (pageBytes b d) cmax)

end Sys2Proof.Machine
end

