-- ==== Sys2Proof/Safety.lean ====
section
/-! DEFINITION. What a legal state of the block is: the invariants of 10_state.md R33, R34, R39 and R44, the canonical
form of the framebuffer, and the words the statements use. -/

namespace Sys2Proof.Machine

/-- The rectangle is "in the sentinel state, or `0 <= DX1 <= DX2 <= W - 1` and `0 <= DY1 <= DY2 <= H - 1`"
(10_state.md R39). -/
abbrev DirtyOk (b : Build) (d : Dirty) : Prop :=
  d = Dirty.sentinel ∨
    ((0 ≤ d.dx1.toInt ∧ d.dx1.toInt ≤ d.dx2.toInt ∧ d.dx2.toInt ≤ b.w - 1) ∧
      (0 ≤ d.dy1.toInt ∧ d.dy1.toInt ≤ d.dy2.toInt ∧ d.dy2.toInt ≤ b.h - 1))

/-- The framebuffer is in canonical form and lists only addresses 0 to FBSIZE - 1 (20_memory.md R70). -/
abbrev MemoryOk (b : Build) (m : Memory) : Prop :=
  m.wf ∧ ∀ c ∈ m, c.1 < fbSize b

/-- INIT_ERR names the reason of LIFE = FAILED and is 0 otherwise (10_state.md R33, R34). -/
abbrev LifecycleOk (s : State) : Prop :=
  (s.life = .failed ↔ s.initErr ≠ .none)

/-- Before a successful INIT nothing is dirty and no FLUSH runs (10_state.md R37, R42; 60_exceptions.md R277). -/
abbrev IdleUnlessReady (s : State) : Prop :=
  s.life ≠ .ready → s.dirty = Dirty.sentinel ∧ s.busy = false

/-- The bytes of page FP that a running FLUSH has still to send are the last REM bytes of the page's column range
(43_flush.md R217, R218). -/
abbrev DataPhaseOk (b : Build) (w : Working) : Prop :=
  1 ≤ w.rem.toNat ∧ w.fp.toNat * b.w + w.cs.toNat ≤ w.ptr.toNat ∧
    w.ptr.toNat + w.rem.toNat = w.fp.toNat * b.w + w.ce.toNat + 1

/-- The working registers of a running FLUSH: set up from the rectangle (43_flush.md R213) and within the ranges of
10_state.md R44, each phase at its place (10_state.md R45). -/
abbrev WorkingOk (b : Build) (d : Dirty) (w : Working) : Prop :=
  dirtyEmpty d = false ∧
  (3 ≤ w.cmax.toNat ∧ w.cmax.toNat ≤ 65534) ∧
  (w.lp.toNat = lastPage d ∧ firstPage d ≤ w.fp.toNat ∧ w.fp.toNat ≤ w.lp.toNat) ∧
  (w.cs.toNat = startColumn b d ∧ w.ce.toNat = endColumn b d) ∧
  (w.phase = .done ↔ w.fp.toNat = w.lp.toNat) ∧
  (w.phase = .data → DataPhaseOk b w)

/-- The invariant of the block. -/
abbrev Inv (s : State) : Prop :=
  DirtyOk s.build s.dirty ∧ MemoryOk s.build s.fb ∧ LifecycleOk s ∧ IdleUnlessReady s ∧
    (s.busy = true → WorkingOk s.build s.dirty s.working)

/-- The outcome of a step is a next state: neither a fault nor a refusal. -/
def GoesOn (r : Result) : Prop := ∃ t, r = .next t

/-- `s` with the framebuffer `m`. -/
def withFb (m : Memory) (s : State) : State := { s with fb := m }

/-- `s` with the transport inputs `x`. -/
def withXport (x : Xport) (s : State) : State := { s with xport := x }

/-- A response word among the events. -/
def isResponse : Event → Bool
  | .response _ => true
  | .transaction _ _ => false
  | .extRstReq => false
  | .abandoned _ => false

/-- `d` is the rectangle `e` widened by the point (px, py): the lesser and the greater coordinates as signed values
(42_dirty.md R190). -/
abbrev WidenedBy (px py : Int) (e d : Dirty) : Prop :=
  d.dx1.toInt = min e.dx1.toInt px ∧ d.dy1.toInt = min e.dy1.toInt py ∧
    d.dx2.toInt = max e.dx2.toInt px ∧ d.dy2.toInt = max e.dy2.toInt py

/-- `d` covers `e` (42_dirty.md R196): no bound of `e` lies outside `d`. -/
abbrev Covers (d e : Dirty) : Prop :=
  d.dx1.toInt ≤ e.dx1.toInt ∧ d.dy1.toInt ≤ e.dy1.toInt ∧ e.dx2.toInt ≤ d.dx2.toInt ∧ e.dy2.toInt ≤ d.dy2.toInt

/-- `m` is `n` with the byte at `a` replaced by `v`, read byte by byte. -/
def StoresByte (a : Nat) (v : Byte) (n m : Memory) : Prop :=
  m.read a = v ∧ ∀ b, b ≠ a → m.read b = n.read b

/-- `m` is `n` with 0x00 at every address below `k`, read byte by byte. -/
def ZeroesBelow (k : Nat) (n m : Memory) : Prop :=
  (∀ a, a < k → m.read a = 0x00#8) ∧ ∀ a, k ≤ a → m.read a = n.read a

/-- `r` is the next state of an in-range SETPIX on `s` (41_pixel.md R161): the byte of the pixel replaced by `f` of the
pixel's mask and that byte, the rectangle widened by the physical point, the response OK, and nothing else changed. -/
def SetsPixel (f : Byte → Byte → Byte) (x y : Int) (s : State) (r : Result) : Prop :=
  let p := transform s.build s.rot x y
  let a := pixelAddr s.build p.1 p.2
  ∃ m d, r = .next { s with fb := m, dirty := d, events := s.events ++ [.response 0x00000000#32] } ∧
    StoresByte a (f (pixelMask p.2) (s.fb.read a)) s.fb m ∧ WidenedBy p.1 p.2 s.dirty d

/-- The line of a mnemonic and its operands: "mnemonic then operands separated by commas" (30_encoding.md R117), with one
space after the mnemonic and after each comma (log 17). -/
def asmLine (mnemonic : List Char) (operands : List (List Char)) : List Char :=
  mnemonic ++ ' ' :: [',', ' '].intercalate operands

/-- The number that digits of base `base` stand for, the first the most significant. -/
def numeralValue (base : Nat) (digits : List Nat) : Nat := digits.foldl (fun n d => n * base + d) 0

/-- A line whose operands are in range assembles to `i`; one whose operands are not is an assembly error
(30_encoding.md R117). -/
def AssemblesWhen (inRange : Prop) (r : Except AsmError Instr) (i : Instr) : Prop :=
  (inRange → r = .ok i) ∧ (¬ inRange → r = .error .operandOutOfRange)

end Sys2Proof.Machine
end

