-- ==== Sys2Proof/Certificates/Slice0/Obligations.lean ====
section
/-! DEFINITION. The statements for the provers: what the numbered rules of spec/ say of the commands, the flush state
machine and the whole block. -/

open Sys2Proof Sys2Proof.Machine

/-! ## Encoding -/

/-- Decoding the word of an instruction whose operands fit gives the instruction back (30_encoding.md sections 1 to
3). -/
def Obligations.DecodeInvertsEncode : Prop :=
  ∀ i : Instr, WellFormed i → decode (encode i) = .ok i

/-- A word that decodes is the word of the instruction it decodes to, and its operands fit: no bit is dropped. -/
def Obligations.EncodeInvertsDecode : Prop :=
  ∀ (w : CommandWord) (i : Instr), decode w = .ok i → WellFormed i ∧ encode i = w

/-- Every word is exactly one row of the match and mask table, the row of what it decodes to, or it is illegal
(30_encoding.md R106; R116, the spec's own inference). -/
def Obligations.EachWordIsOneRowOrIllegal : Prop :=
  ∀ w : CommandWord,
    (∃ i, decode w = .ok i ∧ ∀ r : OpcodeRow, r.Matches w ↔ r = i.row) ∨
      ((∃ e, decode w = .error e) ∧ ∀ r : OpcodeRow, ¬ r.Matches w)

/-- The encoding examples of 30_encoding.md R119, the spec's own inference. -/
def Obligations.WrittenOutWordsDecode : Prop :=
  decode 0x31000000000A0014 = .ok (.setpixSet 10 20) ∧
  decode 0x32000000FFFF0005 = .ok (.setpixInvert (-1) 5) ∧
  decode 0x40000000000A0014 = .ok (.getpix 10 20) ∧
  decode 0x2300000000000000 = .ok (.rot .deg270) ∧
  decode 0x1100000000000000 = .ok (.init true) ∧
  decode 0x9000010A00000010 = .ok (.fbwr 266 0x10) ∧
  decode 0xA000000200000000 = .ok (.rdreg 2) ∧
  decode 0x7000000000000000 = .ok .flush

/-- When the oldest input is a command word that decodes to `i`, the step takes it from the port and is `exec i`. -/
def Obligations.CommandStepRunsDecoded : Prop :=
  ∀ (s : State) (w : CommandWord) (rest : List Input) (i : Instr),
    s.inputs = .command w :: rest → decode w = .ok i → step s = exec i { s with inputs := rest }

/-- A reserved OP, a set bit outside the used fields of the format of a valid OP, or SETPIX mode 3: the word faults with
F_ILL and has no other effect, whatever the state (30_encoding.md R112, R113, R114). -/
def Obligations.IllegalWordFaults : Prop :=
  ∀ (s : State) (w : CommandWord) (rest : List Input), s.inputs = .command w :: rest →
    (0xB ≤ (w.extractLsb' 60 4).toNat ∨
      w &&& ~~~ usedBits (w.extractLsb' 60 4).toNat ≠ 0 ∨
      ((w.extractLsb' 60 4).toNat = 3 ∧ (w.extractLsb' 56 2).toNat = 3)) →
    step s = .next { s with
      inputs := rest
      sticky := { s.sticky with fIll := true }
      events := s.events ++ [.response 0x01000000#32] }

/-- The assembly syntax of 30_encoding.md R117 and R118: an assembled command has operands that fit, a line is its
mnemonic and its operands (the spaces are the model's choice, log 17), numerals are decimal or `0x` hex and an integer may
be negative, and each operand in its range gives its command, each operand out of it, x, y, addr, byte or r, is an assembly
error. -/
def Obligations.AssembledOperandsFit : Prop :=
  (∀ (line : List Char) (i : Instr), assembleLine line = .ok i → WellFormed i) ∧
  -- a line is its mnemonic and its operands
  (∀ (m : List Char) (ops : List (List Char)), ops ≠ [] → (∀ s ∈ m :: ops, s ≠ [] ∧ ' ' ∉ s ∧ ',' ∉ s) →
    assembleLine (asmLine m ops) = assembleParts m ops) ∧
  -- numerals
  (∀ ds : List Nat, ds ≠ [] →
    ((∀ d ∈ ds, d < 10) → parseNat (ds.map Nat.digitChar) = some (numeralValue 10 ds)) ∧
    ((∀ d ∈ ds, d < 16) → parseNat ('0' :: 'x' :: ds.map Nat.digitChar) = some (numeralValue 16 ds))) ∧
  (∀ (s : List Char) (n : Nat), parseNat s = some n →
    parseInt s = some (n : Int) ∧ parseInt ('-' :: s) = some (-(n : Int))) ∧
  -- coordinates
  (∀ (a b : List Char) (x y : Int), parseInt a = some x → parseInt b = some y →
    let fits := (-32768 ≤ x ∧ x ≤ 32767) ∧ (-32768 ≤ y ∧ y ≤ 32767)
    (∀ p ∈ [("GETPIX".toList, Instr.getpix x y), ("MARK".toList, .mark x y), ("PIXON".toList, .setpixSet x y),
        ("PIXOFF".toList, .setpixClear x y), ("PIXINV".toList, .setpixInvert x y)],
      AssemblesWhen fits (assembleParts p.1 [a, b]) p.2) ∧
    (∀ p ∈ [("SET".toList, Instr.setpixSet x y), ("CLEAR".toList, .setpixClear x y), ("INVERT".toList, .setpixInvert x y)],
      AssemblesWhen fits (assembleParts "SETPIX".toList [a, b, p.1]) p.2)) ∧
  -- addresses, register indices, rotations, bytes
  (∀ (a : List Char) (n : Nat), parseNat a = some n →
    AssemblesWhen (n ≤ 65535) (assembleParts "FBRD".toList [a]) (.fbrd n) ∧
    AssemblesWhen (n ≤ 65535) (assembleParts "RDREG".toList [a]) (.rdreg n) ∧
    (∀ r : Rotation, (rotationCode r).toNat = n → assembleParts "ROT".toList [a] = .ok (.rot r)) ∧
    (3 < n → assembleParts "ROT".toList [a] = .error .operandOutOfRange) ∧
    ∀ (b : List Char) (v : Nat), parseNat b = some v →
      AssemblesWhen (n ≤ 65535 ∧ v ≤ 255) (assembleParts "FBWR".toList [a, b]) (.fbwr n (BitVec.ofNat 8 v))) ∧
  -- the forms without a number
  (∀ p ∈ [("NOP".toList, Instr.nop), ("INIT".toList, .init false), ("INIT reset".toList, .init true),
      ("CLEAR".toList, .clear), ("FLUSH".toList, .flush), ("ROT 0deg".toList, .rot .deg0), ("ROT 90deg".toList, .rot .deg90),
      ("ROT 180deg".toList, .rot .deg180), ("ROT 270deg".toList, .rot .deg270)],
    assembleLine p.1 = .ok p.2) ∧
  (∀ p ∈ [("STATUS".toList, 0), ("ROT".toList, 1), ("DX1".toList, 2), ("DY1".toList, 3), ("DX2".toList, 4),
      ("DY2".toList, 5), ("WIDTH".toList, 6), ("HEIGHT".toList, 7), ("LWIDTH".toList, 8), ("LHEIGHT".toList, 9),
      ("PAGES".toList, 10), ("FBSIZE".toList, 11)],
    assembleParts "RDREG".toList [p.1] = .ok (.rdreg p.2))

/-! ## Reset and the whole block -/

/-- The values 10_state.md R47 gives the registers after reset. -/
def Obligations.ResetValues : Prop :=
  State.reset.life = .uninit ∧ State.reset.initErr = .none ∧ State.reset.rot = .deg0 ∧
  (State.reset.dirty.dx1.toInt = 32767 ∧ State.reset.dirty.dy1.toInt = 32767) ∧
  (State.reset.dirty.dx2.toInt = -1 ∧ State.reset.dirty.dy2.toInt = -1) ∧
  State.reset.lfail = false ∧ State.reset.busy = false ∧
  State.reset.sticky = ⟨false, false, false, false, false, false⟩

/-- The reset input puts every register that 10_state.md R47 gives a value at that value, in any state, and answers no
command (70_reset_and_hazards.md R300). What stays (build, environment, earlier events) is the model's choice, log 11.
-/
def Obligations.ResetInputResets : Prop :=
  ∀ (s : State) (rest : List Input), s.inputs = .reset :: rest →
    ∃ t, step s = .next t ∧ t.inputs = rest ∧
      t.life = .uninit ∧ t.initErr = .none ∧ t.rot = .deg0 ∧ t.dirty = Dirty.sentinel ∧
      t.lfail = false ∧ t.busy = false ∧ t.sticky = ⟨false, false, false, false, false, false⟩ ∧
      t.build = s.build ∧ t.events.filter isResponse = s.events.filter isResponse

/-- The state after reset meets the invariant. -/
def Obligations.InvariantAtReset : Prop := Inv State.reset

/-- Every step keeps the invariant, from every state that meets it. -/
def Obligations.InvariantKeptByStep : Prop :=
  ∀ s t : State, Inv s → step s = .next t → Inv t

/-- From a state that meets the invariant a step never faults and never refuses. -/
def Obligations.InvariantStatesNeverStop : Prop :=
  ∀ s : State, Inv s → GoesOn (step s)

/-- "either the rectangle is in the sentinel state, or `0 <= DX1 <= DX2 <= W - 1` and `0 <= DY1 <= DY2 <= H - 1`":
kept by every step, from every state (10_state.md R39, the spec's own inference). -/
def Obligations.DirtyInvariantKept : Prop :=
  ∀ s t : State, DirtyOk s.build s.dirty → step s = .next t → DirtyOk t.build t.dirty

/-- No step changes the constants of the build (10_state.md R30; that they stand in State is the model's choice, log
3). -/
def Obligations.BuildNeverChanges : Prop :=
  ∀ s t : State, step s = .next t → t.build = s.build

/-- A sticky fault bit stays set through every step but reset (60_exceptions.md R287). -/
def Obligations.StickyBitsStayUntilReset : Prop :=
  ∀ (s t : State) (f : StickyBit), step s = .next t → stickyBit f s.sticky = true →
    stickyBit f t.sticky = true ∨ ∃ rest, s.inputs = .reset :: rest

/-- LIFE starts UNINIT, is written only by INIT, from UNINIT to READY or FAILED, and by reset; no command leaves READY
or FAILED (10_state.md R33). -/
def Obligations.LifecycleTransitions : Prop :=
  State.reset.life = .uninit ∧
  ∀ s t : State, step s = .next t → t.life ≠ s.life →
    ((∃ rest, s.inputs = .reset :: rest) ∧ t.life = .uninit) ∨
    ((∃ w rest rst, s.inputs = .command w :: rest ∧ decode w = .ok (.init rst)) ∧ s.life = .uninit ∧
      (t.life = .ready ∨ t.life = .failed))

/-- A command answers with exactly one response word, or is a FLUSH that now runs and has put nothing out; and it sets
at most one sticky bit (60_exceptions.md R273). -/
def Obligations.OneResponsePerCommand : Prop :=
  ∀ (w : CommandWord) (s t : State), acceptWord w s = .next t →
    ((∃ front r, t.events = s.events ++ front ++ [.response r] ∧ ∀ e ∈ front, isResponse e = false) ∨
      (decode w = .ok .flush ∧ s.busy = false ∧ t.busy = true ∧ t.events = s.events)) ∧
    (t.sticky = s.sticky ∨ ∃ f, t.sticky = setSticky f s.sticky)

/-- A command answered with a fault code, 0x01 to 0x06, changes nothing but one sticky bit and the response, and is
answered DATA = 0 (60_exceptions.md R275). -/
def Obligations.FaultsArePrecise : Prop :=
  ∀ (w : CommandWord) (s t : State) (r : ResponseWord), acceptWord w s = .next t →
    t.events = s.events ++ [.response r] →
    1 ≤ (r.extractLsb' 24 8).toNat → (r.extractLsb' 24 8).toNat ≤ 6 →
    ∃ f : StickyBit, t = { s with sticky := setSticky f s.sticky, events := s.events ++ [.response r] } ∧
      r.extractLsb' 24 8 = codeByte (faultCode f) ∧ r.extractLsb' 0 24 = 0

/-- While LIFE is not READY and no FLUSH runs, no step lets the framebuffer's contents be seen: two states that differ
only there step alike, and a successful INIT gives both the same framebuffer (20_memory.md R72). -/
def Obligations.FramebufferUnseenBeforeInit : Prop :=
  ∀ (s t : State) (m : Memory), MemoryOk s.build s.fb → MemoryOk s.build m → s.life ≠ .ready → s.busy = false →
    step s = .next t →
    ∃ n, step (withFb m s) = .next (withFb n t) ∧ (t.life = .ready → n = t.fb)

/-! ## The checks of a command -/

/-- While a FLUSH runs every command but RDREG is rejected with F_BUSY and changes nothing else
(60_exceptions.md R278). -/
def Obligations.BusyRejectsAllButRdreg : Prop :=
  ∀ (s : State) (i : Instr), s.busy = true → (∀ idx, i ≠ .rdreg idx) →
    exec i s = .next { s with
      sticky := { s.sticky with fBusy := true }
      events := s.events ++ [.response 0x03000000#32] }

/-- A command that arrives while a FLUSH runs, RDREG and an illegal word among them, leaves the FLUSH as it is
(60_exceptions.md R274, the spec's own inference). -/
def Obligations.CommandsLeaveRunningFlush : Prop :=
  ∀ (s t : State) (w : CommandWord), s.busy = true → acceptWord w s = .next t →
    t = { s with sticky := t.sticky, events := t.events }

/-- SETPIX, GETPIX, CLEAR, MARK, FLUSH, FBRD and FBWR while LIFE is not READY fault with F_NRDY and change nothing else
(60_exceptions.md R277). -/
def Obligations.NotReadyFaults : Prop :=
  ∀ (s : State) (i : Instr), s.busy = false → s.life ≠ .ready →
    i ≠ .nop → (∀ rst, i ≠ .init rst) → (∀ r, i ≠ .rot r) → (∀ idx, i ≠ .rdreg idx) →
    exec i s = .next { s with
      sticky := { s.sticky with fNrdy := true }
      events := s.events ++ [.response 0x02000000#32] }

/-- INIT in READY or FAILED faults with F_REINIT and changes nothing else (44_control.md R254). -/
def Obligations.SecondInitFaults : Prop :=
  ∀ (s : State) (rst : Bool), s.busy = false → s.life ≠ .uninit →
    exec (.init rst) s = .next { s with
      sticky := { s.sticky with fReinit := true }
      events := s.events ++ [.response 0x06000000#32] }

/-- FBRD and FBWR with ADDR >= FBSIZE fault with F_ADDR and change nothing else (60_exceptions.md R279). -/
def Obligations.RawAddressBeyondFbFaults : Prop :=
  ∀ (s : State) (addr : Nat) (byte : Byte), s.busy = false → s.life = .ready → fbSize s.build ≤ addr →
    exec (.fbrd addr) s = .next { s with
      sticky := { s.sticky with fAddr := true }
      events := s.events ++ [.response 0x04000000#32] } ∧
    exec (.fbwr addr byte) s = .next { s with
      sticky := { s.sticky with fAddr := true }
      events := s.events ++ [.response 0x04000000#32] }

/-! ## Control commands and the register map -/

/-- NOP responds OK and changes nothing (44_control.md R250). -/
def Obligations.NopOnlyResponds : Prop :=
  ∀ s : State, s.busy = false →
    exec .nop s = .next { s with events := s.events ++ [.response 0x00000000#32] }

/-- ROT writes ROT, in every LIFE state, and nothing else: framebuffer and rectangle stay (40_transform.md R146,
R147). -/
def Obligations.RotWritesOnlyRotation : Prop :=
  ∀ (s : State) (r : Rotation), s.busy = false →
    exec (.rot r) s = .next { s with rot := r, events := s.events ++ [.response 0x00000000#32] }

/-- INIT from UNINIT with ALLOC_OK = BUS_OK = 1: READY, INIT_ERR 0, the sentinel, every framebuffer byte 0x00,
EXT_RST_REQ exactly when rst is 1, the response OK, and nothing else (44_control.md R251, R252). -/
def Obligations.InitSucceeds : Prop :=
  ∀ (s : State) (rst : Bool), s.busy = false → s.life = .uninit → s.allocOk = true → s.busOk = true →
    ∃ m, exec (.init rst) s = .next { s with
        life := .ready
        initErr := .none
        dirty := Dirty.sentinel
        fb := m
        events := s.events ++ (if rst then [.extRstReq] else []) ++ [.response 0x00000000#32] } ∧
      ZeroesBelow (fbSize s.build) s.fb m

/-- INIT with ALLOC_OK = 0, or with ALLOC_OK = 1 and BUS_OK = 0: FAILED with the reason in INIT_ERR, and nothing else
(44_control.md R251). -/
def Obligations.InitFailureOutcomes : Prop :=
  ∀ (s : State) (rst : Bool), s.busy = false → s.life = .uninit →
    (s.allocOk = false → exec (.init rst) s = .next { s with
      life := .failed
      initErr := .allocation
      events := s.events ++ [.response 0x07000000#32] }) ∧
    (s.allocOk = true → s.busOk = false → exec (.init rst) s = .next { s with
      life := .failed
      initErr := .busInit
      events := s.events ++ [.response 0x08000000#32] })

/-- The RDREG register map (44_control.md R256), read in any state, BUSY or not, with no other effect; a reserved index
faults with F_ILL. -/
def Obligations.RdregReadsTheMap : Prop :=
  ∀ s : State,
    let reads (idx : Nat) (v : Half) : Prop :=
      exec (.rdreg idx) s = .next { s with events := s.events ++ [.response (v.setWidth 32)] }
    (reads 0 (statusWord s) ∧
      reads 1 (match s.rot with
        | .deg0 => 0
        | .deg90 => 1
        | .deg180 => 2
        | .deg270 => 3) ∧
      reads 2 s.dirty.dx1 ∧ reads 3 s.dirty.dy1 ∧ reads 4 s.dirty.dx2 ∧ reads 5 s.dirty.dy2 ∧
      reads 6 (BitVec.ofNat 16 s.build.w) ∧ reads 7 (BitVec.ofNat 16 s.build.h) ∧
      reads 8 (BitVec.ofNat 16 (if s.rot = .deg0 ∨ s.rot = .deg180 then s.build.w else s.build.h)) ∧
      reads 9 (BitVec.ofNat 16 (if s.rot = .deg0 ∨ s.rot = .deg180 then s.build.h else s.build.w)) ∧
      reads 10 (BitVec.ofNat 16 ((s.build.h + 7) / 8)) ∧
      reads 11 (BitVec.ofNat 16 ((s.build.h + 7) / 8 * s.build.w))) ∧
    ∀ idx, 12 ≤ idx → exec (.rdreg idx) s = .next { s with
      sticky := { s.sticky with fIll := true }
      events := s.events ++ [.response 0x01000000#32] }

/-- The fields of STATUS (10_state.md R40): each field at its bits, the reserved bits 0. -/
def Obligations.StatusFieldLayout : Prop :=
  ∀ s : State,
    ((statusWord s).extractLsb' 0 2).toNat = lifeCode s.life ∧
    (statusWord s).getLsbD 2 = s.busy ∧
    (statusWord s).getLsbD 3 = !dirtyEmpty s.dirty ∧
    (statusWord s).getLsbD 4 = s.lfail ∧
    ((statusWord s).extractLsb' 5 2).toNat = initErrCode s.initErr ∧
    (statusWord s).getLsbD 7 = false ∧
    (statusWord s).getLsbD 8 = s.sticky.fIll ∧
    (statusWord s).getLsbD 9 = s.sticky.fNrdy ∧
    (statusWord s).getLsbD 10 = s.sticky.fBusy ∧
    (statusWord s).getLsbD 11 = s.sticky.fAddr ∧
    (statusWord s).getLsbD 12 = s.sticky.fXport ∧
    (statusWord s).getLsbD 13 = s.sticky.fReinit ∧
    (statusWord s).extractLsb' 14 2 = 0

/-! ## The transform and the pixel commands -/

/-- T maps the logical rectangle one to one onto the physical one, with the inverse the rule gives
(40_transform.md R144, the spec's own inference). -/
def Obligations.TransformIsBijective : Prop :=
  ∀ (b : Build) (r : Rotation),
    (∀ x y, InLogicalRange b r x y →
      InPhysicalRange b (transform b r x y).1 (transform b r x y).2 ∧
      transformInverse b r (transform b r x y).1 (transform b r x y).2 = (x, y)) ∧
    (∀ px py, InPhysicalRange b px py →
      InLogicalRange b r (transformInverse b r px py).1 (transformInverse b r px py).2 ∧
      transform b r (transformInverse b r px py).1 (transformInverse b r px py).2 = (px, py))

/-- An in-range SETPIX, in each mode, replaces exactly the pixel's byte, with the pixel's bit cleared, set or inverted,
widens the rectangle by the physical point whether or not the bit changed, and responds OK (41_pixel.md R161, R162,
R164). -/
def Obligations.SetpixWritesItsBit : Prop :=
  ∀ (s : State) (x y : Int), s.busy = false → s.life = .ready → s.fb.wf → InLogicalRange s.build s.rot x y →
    SetsPixel (fun m v => v &&& (0xFF#8 ^^^ m)) x y s (exec (.setpixClear x y) s) ∧
    SetsPixel (fun m v => v ||| m) x y s (exec (.setpixSet x y) s) ∧
    SetsPixel (fun m v => v ^^^ m) x y s (exec (.setpixInvert x y) s)

/-- A clipped SETPIX responds OK and changes nothing (41_pixel.md R163). -/
def Obligations.ClippedSetpixChangesNothing : Prop :=
  ∀ (s : State) (x y : Int), s.busy = false → s.life = .ready → ¬ InLogicalRange s.build s.rot x y →
    exec (.setpixClear x y) s = .next { s with events := s.events ++ [.response 0x00000000#32] } ∧
    exec (.setpixSet x y) s = .next { s with events := s.events ++ [.response 0x00000000#32] } ∧
    exec (.setpixInvert x y) s = .next { s with events := s.events ++ [.response 0x00000000#32] }

/-- GETPIX in range responds the pixel's bit in DATA[0] and changes nothing else (41_pixel.md R165). -/
def Obligations.GetpixReadsItsBit : Prop :=
  ∀ (s : State) (x y : Int), s.busy = false → s.life = .ready → InLogicalRange s.build s.rot x y →
    exec (.getpix x y) s = .next { s with events := s.events ++
      [.response (if pixelValue s.build s.rot s.fb x y then 0x00000001#32 else 0x00000000#32)] }

/-- "An out-of-range GETPIX responds `CODE = OK, DATA = 0`" and changes nothing else (41_pixel.md R166). -/
def Obligations.OutOfRangeGetpixIsOff : Prop :=
  ∀ (s : State) (x y : Int), s.busy = false → s.life = .ready → ¬ InLogicalRange s.build s.rot x y →
    exec (.getpix x y) s = .next { s with events := s.events ++ [.response 0x00000000#32] }

/-- The round trips of 41_pixel.md R169: SET then GETPIX gives 1; CLEAR then GETPIX gives 0; SET, CLEAR, GETPIX gives 0;
two INVERTs leave the pixel as it was (the spec's own inference). -/
def Obligations.PixelRoundTrips : Prop :=
  ∀ (s : State) (x y : Int), s.busy = false → s.life = .ready → s.fb.wf → InLogicalRange s.build s.rot x y →
    let answers (t : State) (r : ResponseWord) : Prop :=
      exec (.getpix x y) t = .next { t with events := t.events ++ [.response r] }
    (∃ t, exec (.setpixSet x y) s = .next t ∧ answers t 0x00000001#32 ∧
      ∃ u, exec (.setpixClear x y) t = .next u ∧ answers u 0x00000000#32) ∧
    (∃ t, exec (.setpixClear x y) s = .next t ∧ answers t 0x00000000#32) ∧
    (∃ t u, exec (.setpixInvert x y) s = .next t ∧ exec (.setpixInvert x y) t = .next u ∧
      pixelValue u.build u.rot u.fb x y = pixelValue s.build s.rot s.fb x y)

/-- Distinct in-range logical coordinates address distinct bits, and a SETPIX, in each mode, changes no pixel other than
its own (41_pixel.md R170, the spec's own inference). -/
def Obligations.SetpixChangesNoOtherPixel : Prop :=
  ∀ (s : State) (x y u v : Int), s.busy = false → s.life = .ready →
    s.fb.wf → InLogicalRange s.build s.rot x y → InLogicalRange s.build s.rot u v → (u, v) ≠ (x, y) →
    (let p := transform s.build s.rot x y
      let q := transform s.build s.rot u v
      (pixelAddr s.build p.1 p.2, pixelBit p.2) ≠ (pixelAddr s.build q.1 q.2, pixelBit q.2)) ∧
    ∀ i ∈ [Instr.setpixClear x y, .setpixSet x y, .setpixInvert x y],
      ∃ t, exec i s = .next t ∧ pixelValue t.build t.rot t.fb u v = pixelValue s.build s.rot s.fb u v

/-- CLEAR zeroes every framebuffer byte, sets the full rectangle (0, 0, W - 1, H - 1), responds OK, and changes nothing
else (41_pixel.md R167). -/
def Obligations.ClearBlanksAndMarksAll : Prop :=
  ∀ s : State, s.busy = false → s.life = .ready →
    ∃ m d, exec .clear s = .next { s with fb := m, dirty := d, events := s.events ++ [.response 0x00000000#32] } ∧
      ZeroesBelow (fbSize s.build) s.fb m ∧
      (d.dx1.toInt = 0 ∧ d.dy1.toInt = 0 ∧ d.dx2.toInt = s.build.w - 1 ∧ d.dy2.toInt = s.build.h - 1)

/-- FBRD below FBSIZE responds the byte and changes nothing (41_pixel.md R172, R173). -/
def Obligations.FbrdReadsTheByte : Prop :=
  ∀ (s : State) (addr : Nat), s.busy = false → s.life = .ready → addr < fbSize s.build →
    exec (.fbrd addr) s = .next { s with events := s.events ++ [.response ((s.fb.read addr).setWidth 32)] }

/-- FBWR below FBSIZE writes exactly that byte, leaves the rectangle, and responds OK (41_pixel.md R175, R176). -/
def Obligations.FbwrWritesTheByte : Prop :=
  ∀ (s : State) (addr : Nat) (byte : Byte), s.busy = false → s.life = .ready → s.fb.wf → addr < fbSize s.build →
    ∃ m, exec (.fbwr addr byte) s = .next { s with fb := m, events := s.events ++ [.response 0x00000000#32] } ∧
      StoresByte addr byte s.fb m

/-- MARK of a physical point of the buffer widens the rectangle by it; MARK outside changes nothing; both respond OK
(42_dirty.md R193). -/
def Obligations.MarkWidensInsideOnly : Prop :=
  ∀ (s : State) (x y : Int), s.busy = false → s.life = .ready →
    (InPhysicalRange s.build x y →
      ∃ d, exec (.mark x y) s = .next { s with dirty := d, events := s.events ++ [.response 0x00000000#32] } ∧
        WidenedBy x y s.dirty d) ∧
    (¬ InPhysicalRange s.build x y →
      exec (.mark x y) s = .next { s with events := s.events ++ [.response 0x00000000#32] })

/-- "FLUSH, MARK, CLEAR, FBRD and FBWR work in physical coordinates or addresses and ignore ROT" (40_transform.md R148);
so does every step of a running FLUSH. -/
def Obligations.PhysicalCommandsIgnoreRotation : Prop :=
  ∀ (s : State) (r : Rotation),
    (∀ (x y : Int) (addr : Nat) (byte : Byte),
      ∀ i ∈ [Instr.flush, .mark x y, .clear, .fbrd addr, .fbwr addr byte],
        ∃ t, exec i s = .next t ∧ exec i { s with rot := r } = .next { t with rot := r }) ∧
    (∀ (ok : Bool) (t : State), flushStep ok s = .next t →
      flushStep ok { s with rot := r } = .next { t with rot := r })

/-! ## The dirty region -/

/-- The commands and the failed transaction that 10_state.md R38 names leave the rectangle as it is. -/
def Obligations.NonWritersLeaveTheRectangle : Prop :=
  ∀ (s t : State),
    (∀ (x y : Int) (addr idx : Nat) (byte : Byte) (r : Rotation),
      ∀ i ∈ [Instr.fbwr addr byte, .getpix x y, .fbrd addr, .rot r, .rdreg idx, .nop],
        exec i s = .next t → t.dirty = s.dirty) ∧
    (s.working.phase ≠ .done → flushStep false s = .next t → t.dirty = s.dirty)

/-- No step shrinks the rectangle but the completion of a FLUSH, INIT, and reset (42_dirty.md R196, the spec's own
inference). -/
def Obligations.RectangleGrowsUntilReset : Prop :=
  ∀ s t : State, DirtyOk s.build s.dirty → step s = .next t →
    Covers t.dirty s.dirty ∨
    (t.dirty = Dirty.sentinel ∧
      ((∃ rest, s.inputs = .reset :: rest) ∨
        (∃ w rest rst, s.inputs = .command w :: rest ∧ decode w = .ok (.init rst) ∧ s.life = .uninit) ∨
        (s.busy = true ∧ s.working.phase = .done ∧ t.busy = false)))

/-- The point `MARK a mod W, 8 * (a div W)` that 70_reset_and_hazards.md R305 prescribes after FBWR at `a` is a point of the
buffer, and in a rectangle widened by it the page of `a` is in the page range of a FLUSH and its column in the column
range. -/
def Obligations.MarkCoversARawWrite : Prop :=
  ∀ (b : Build) (d e : Dirty) (a : Nat), DirtyOk b d → a < fbSize b →
    WidenedBy (a % b.w : Nat) (8 * (a / b.w) : Nat) d e →
    InPhysicalRange b (a % b.w : Nat) (8 * (a / b.w) : Nat) ∧
    (firstPage e ≤ a / b.w ∧ a / b.w < lastPage e) ∧
    (startColumn b e ≤ a % b.w ∧ a % b.w ≤ endColumn b e)

/-! ## FLUSH -/

/-- A FLUSH of an empty region puts no transaction out, leaves the rectangle, which is the sentinel wherever 10_state.md
R39 holds, sets LFAIL to 0, does not set BUSY and responds OK in the accepting step, whatever XPORT_READY and MAXBUF are
(43_flush.md R211). -/
def Obligations.EmptyFlushOnlyResponds : Prop :=
  ∀ s : State, s.busy = false → s.life = .ready → dirtyEmpty s.dirty = true →
    exec .flush s = .next { s with lfail := false, events := s.events ++ [.response 0x00000000#32] } ∧
      (DirtyOk s.build s.dirty → s.dirty = Dirty.sentinel)

/-- A FLUSH of a non-empty region with XPORT_READY = 0 or MAXBUF < 4 faults with F_XPORT and changes nothing else; else
CMAX is MAXBUF - 1 (43_flush.md R212), for the whole FLUSH. -/
def Obligations.FlushNeedsTheTransport : Prop :=
  (∀ s : State, s.busy = false → s.life = .ready → dirtyEmpty s.dirty = false →
    (s.xport.ready = false ∨ s.xport.maxbuf.toNat < 4 →
      exec .flush s = .next { s with
        sticky := { s.sticky with fXport := true }
        events := s.events ++ [.response 0x05000000#32] }) ∧
    (s.xport.ready = true → 4 ≤ s.xport.maxbuf.toNat →
      ∃ t, exec .flush s = .next t ∧ t.working.cmax.toNat = s.xport.maxbuf.toNat - 1)) ∧
  (∀ (ok : Bool) (s t : State), flushStep ok s = .next t → t.busy = true → t.working.cmax = s.working.cmax)

/-- The set-up of a FLUSH (43_flush.md R213): first_page, last_page, col_start and col_end, with
`0 <= FP < LP <= PAGES` and `0 <= CS <= CE <= W - 1`, the clamps changing nothing, and all pages after CLEAR; BUSY is 1,
nothing is put out, and nothing else changes. -/
def Obligations.FlushSetsUpItsPages : Prop :=
  ∀ s : State, s.busy = false → s.life = .ready → DirtyOk s.build s.dirty → dirtyEmpty s.dirty = false →
    s.xport.ready = true → 4 ≤ s.xport.maxbuf.toNat →
    ∃ w, exec .flush s = .next { s with working := w, busy := true } ∧
      w.phase = .select ∧
      ((w.fp.toNat : Int) = s.dirty.dy1.toInt / 8 ∧ (w.lp.toNat : Int) = (s.dirty.dy2.toInt + 1 + 7) / 8) ∧
      ((w.cs.toNat : Int) = s.dirty.dx1.toInt ∧ (w.ce.toNat : Int) = s.dirty.dx2.toInt) ∧
      (w.fp.toNat < w.lp.toNat ∧ w.lp.toNat ≤ pages s.build) ∧
      (w.cs.toNat ≤ w.ce.toNat ∧ w.ce.toNat ≤ s.build.w - 1) ∧
      (s.dirty = dirtyFull s.build → w.fp.toNat = 0 ∧ w.lp.toNat = pages s.build)

/-- The SELECT step, answered ok (43_flush.md R215, R217, R225; the command codes are the spec's general knowledge,
log 15): one CMD transaction with the page and the column nibbles,
PTR at the page's first byte, REM its L bytes, and the data phase next. -/
def Obligations.SelectStepSendsPageSelect : Prop :=
  ∀ (s : State) (rest : List Input), Inv s → s.busy = true → s.working.phase = .select →
    s.inputs = .answer true :: rest →
    let c := s.working.cs.toNat + s.build.colOffset
    ∃ w, step s = .next { s with
        inputs := rest
        working := w
        events := s.events ++ [.transaction
          ⟨.cmd, s.build.cmdPrefix,
            [BitVec.ofNat 8 (0xB0 + s.working.fp.toNat), BitVec.ofNat 8 (0x10 + c / 16), BitVec.ofNat 8 (c % 16)]⟩
          true] } ∧
      (s.working.fp.toNat < 16 ∧ c < 256) ∧
      w.ptr.toNat = s.working.fp.toNat * s.build.w + s.working.cs.toNat ∧
      w.rem.toNat = s.working.ce.toNat - s.working.cs.toNat + 1 ∧
      w = { s.working with phase := .data, ptr := w.ptr, rem := w.rem }

/-- The DATA step, answered ok (43_flush.md R218, R225): one DATA transaction of `n = min(REM, CMAX)` bytes from PTR,
PTR and REM moved by n, then the next chunk, the next page, or DONE. -/
def Obligations.DataStepSendsChunk : Prop :=
  ∀ (s : State) (rest : List Input), Inv s → s.busy = true → s.working.phase = .data →
    s.inputs = .answer true :: rest →
    let n := min s.working.rem.toNat s.working.cmax.toNat
    ∃ w, step s = .next { s with
        inputs := rest
        working := w
        events := s.events ++ [.transaction
          ⟨.data, s.build.dataPrefix, bytesAt s.fb s.working.ptr.toNat n⟩ true] } ∧
      1 ≤ n ∧
      w.ptr.toNat = s.working.ptr.toNat + n ∧ w.rem.toNat = s.working.rem.toNat - n ∧
      (n < s.working.rem.toNat → w = { s.working with ptr := w.ptr, rem := w.rem }) ∧
      (n = s.working.rem.toNat →
        w.fp.toNat = s.working.fp.toNat + 1 ∧
        w.phase = (if w.fp.toNat < w.lp.toNat then .select else .done) ∧
        w = { s.working with ptr := w.ptr, rem := w.rem, fp := w.fp, phase := w.phase })

/-- A transaction answered fail, the page-select among them (43_flush.md R216), ends the FLUSH (R221): the rectangle and
the framebuffer stay, LFAIL is 1, BUSY 0, the response ERR_XFER; nothing else changes but the working registers, which
BUSY = 0 leaves unspecified, and the counter of free values. -/
def Obligations.FailedTransactionAborts : Prop :=
  ∀ (s : State) (rest : List Input), Inv s → s.busy = true → s.working.phase ≠ .done →
    s.inputs = .answer false :: rest →
    ∃ x w n, currentTransaction s = some x ∧ step s = .next { s with
      inputs := rest
      lfail := true
      busy := false
      working := w
      draws := n
      events := s.events ++ [.transaction x false, .response 0x09000000#32] }

/-- The completion step (43_flush.md R222): the sentinel, LFAIL 0, BUSY 0, the response OK, no transaction; nothing else
changes but the working registers and the counter of free values. SEQ takes it when no other input comes first. -/
def Obligations.DoneStepCompletes : Prop :=
  ∀ (s : State), s.busy = true → s.working.phase = .done → s.inputs = [] →
    ∃ w n, step s = .next { s with
      dirty := Dirty.sentinel
      lfail := false
      busy := false
      working := w
      draws := n
      events := s.events ++ [.response 0x00000000#32] }

/-- A FLUSH of a non-empty region whose transactions are all answered ok puts out exactly FlushSeq and then the
response OK, and leaves the sentinel, LFAIL 0, BUSY 0 and the framebuffer as it was (43_flush.md R222; R226 is the
spec's own inference). -/
def Obligations.FlushEmitsItsSequence : Prop :=
  ∀ s : State, s.busy = false → s.life = .ready → DirtyOk s.build s.dirty → dirtyEmpty s.dirty = false →
    s.xport.ready = true → 4 ≤ s.xport.maxbuf.toNat →
    let txs := flushSeq s.build s.fb s.dirty (s.xport.maxbuf.toNat - 1)
    s.inputs = .command 0x7000000000000000#64 :: txs.map (fun _ => .answer true) →
    ∃ w n, Host.Core.run Sys2Proof.core (txs.length + 2) s = .next { s with
      inputs := []
      dirty := Dirty.sentinel
      lfail := false
      busy := false
      working := w
      draws := n
      events := s.events ++ txs.map (fun x => .transaction x true) ++ [.response 0x00000000#32] }

/-- When the transaction after the first `k` of FlushSeq is answered fail, the FLUSH puts out FlushSeq up to and
including it and then ERR_XFER, and leaves the rectangle and the framebuffer as they were, LFAIL 1 and BUSY 0
(43_flush.md R221; R226 is the spec's own inference). -/
def Obligations.FailedFlushEmitsAPart : Prop :=
  ∀ (s : State) (k : Nat) (x : Transaction) (rest : List Input),
    s.busy = false → s.life = .ready → DirtyOk s.build s.dirty → dirtyEmpty s.dirty = false →
    s.xport.ready = true → 4 ≤ s.xport.maxbuf.toNat →
    let txs := flushSeq s.build s.fb s.dirty (s.xport.maxbuf.toNat - 1)
    txs[k]? = some x →
    s.inputs = .command 0x7000000000000000#64 :: List.replicate k (.answer true) ++ .answer false :: rest →
    ∃ w n, Host.Core.run Sys2Proof.core (k + 2) s = .next { s with
      inputs := rest
      lfail := true
      busy := false
      working := w
      draws := n
      events := s.events ++ (txs.take k).map (fun t => .transaction t true) ++
        [.transaction x false, .response 0x09000000#32] }

/-- Termination (43_flush.md R227, the spec's own inference): a FLUSH accepted with a non-empty region ends within
`(LP - FP) * (1 + ceil(L / CMAX)) + 1` SEQ steps, at most 1393, for every sequence of XPORT's answers that answers every
transaction; and while XPORT does not answer, SEQ waits. -/
def Obligations.FlushTerminates : Prop :=
  (∀ (s t : State) (answers : List Bool),
    s.busy = false → s.life = .ready → DirtyOk s.build s.dirty → exec .flush s = .next t → t.busy = true →
    let bound := (lastPage s.dirty - firstPage s.dirty) *
      (1 + chunkCount (pageBytes s.build s.dirty) t.working.cmax.toNat) + 1
    t.inputs = answers.map .answer → bound ≤ answers.length + 1 →
    bound ≤ 1393 ∧
    ∃ k u, k ≤ bound ∧ Host.Core.run Sys2Proof.core k t = .next u ∧ u.busy = false) ∧
  (∀ s : State, awaitsAnswer s = true → s.inputs = [] → step s = .next s)

/-- The chunk splitter (43_flush.md R219, the spec's own inference): `len` bytes take exactly ceil(len / CMAX) data
transactions, the first floor(len / CMAX) of CMAX bytes and one of `len mod CMAX` bytes if that is non-zero, and in
order they are exactly the bytes of the range. -/
def Obligations.ChunksRebuildTheRange : Prop :=
  ∀ (b : Build) (m : Memory) (a len cmax : Nat), 1 ≤ len → 1 ≤ cmax →
    (dataChunks b m a len cmax).map (fun x => x.payload.length) =
      List.replicate (len / cmax) cmax ++ (if len % cmax = 0 then [] else [len % cmax]) ∧
    (dataChunks b m a len cmax).length = chunkCount len cmax ∧
    (dataChunks b m a len cmax).flatMap Transaction.payload = bytesAt m a len

/-- On the wire no transaction of a FLUSH exceeds MAXBUF bytes (43_flush.md R220). -/
def Obligations.TransactionsFitMaxbuf : Prop :=
  ∀ (b : Build) (m : Memory) (d : Dirty) (maxbuf : Nat), 4 ≤ maxbuf →
    ∀ x ∈ flushSeq b m d (maxbuf - 1), x.wire.length ≤ maxbuf

/-- The pages sent are exactly those that hold a row of the rectangle (43_flush.md R223, the spec's own inference). -/
def Obligations.EveryTouchedPageIsSent : Prop :=
  ∀ (b : Build) (m : Memory) (d : Dirty) (cmax p : Nat), DirtyOk b d → dirtyEmpty d = false → p < 16 →
    (pageSelect b p (startColumn b d + b.colOffset) ∈ flushSeq b m d cmax ↔
      ∃ y : Int, d.dy1.toInt ≤ y ∧ y ≤ d.dy2.toInt ∧ y / 8 = p)

/-- The ranges of the working registers of a running FLUSH (10_state.md R44, the spec's own inference): CMAX, FP, LP,
CS and CE throughout, PTR and REM while PHASE is DATA, where the flush state machine reads them. -/
def Obligations.RunningFlushRegistersInRange : Prop :=
  ∀ s : State, Inv s → s.busy = true →
    (3 ≤ s.working.cmax.toNat ∧ s.working.cmax.toNat ≤ 65534) ∧
    (firstPage s.dirty ≤ s.working.fp.toNat ∧ s.working.fp.toNat ≤ s.working.lp.toNat) ∧
    (1 ≤ s.working.lp.toNat ∧ s.working.lp.toNat ≤ pages s.build) ∧
    (s.working.cs.toNat ≤ s.working.ce.toNat ∧ s.working.ce.toNat ≤ s.build.w - 1) ∧
    (s.working.phase = .data →
      s.working.ptr.toNat + s.working.rem.toNat ≤ fbSize s.build ∧ s.working.rem.toNat ≤ s.build.w)

/-- "a change of either while BUSY = 1 has no effect on the running FLUSH" (10_state.md R46): XPORT's change touches
only XPORT_READY and MAXBUF, and no step of the flush state machine reads them. -/
def Obligations.RunningFlushIgnoresTransportChange : Prop :=
  ∀ (s : State) (x : Xport),
    (∀ rest, s.inputs = .transport x.ready x.maxbuf :: rest → step s = .next (withXport x { s with inputs := rest })) ∧
    (∀ ok, match flushStep ok s with
      | .next t => flushStep ok (withXport x s) = .next (withXport x t)
      | .fault f => flushStep ok (withXport x s) = .fault f
      | .refused r => flushStep ok (withXport x s) = .refused r)
end

