-- ==== Sys2Proof/Laws/State.lean ====
section
/-! SUPPORT. What each named update of the state does to each field, so that no proof unfolds a record update. -/

namespace Sys2Proof.Machine

@[simp] theorem emitEvent_build (e : Event) (s : State) : (emitEvent e s).build = s.build := rfl
@[simp] theorem emitEvent_life (e : Event) (s : State) : (emitEvent e s).life = s.life := rfl
@[simp] theorem emitEvent_initErr (e : Event) (s : State) : (emitEvent e s).initErr = s.initErr := rfl
@[simp] theorem emitEvent_rot (e : Event) (s : State) : (emitEvent e s).rot = s.rot := rfl
@[simp] theorem emitEvent_dirty (e : Event) (s : State) : (emitEvent e s).dirty = s.dirty := rfl
@[simp] theorem emitEvent_lfail (e : Event) (s : State) : (emitEvent e s).lfail = s.lfail := rfl
@[simp] theorem emitEvent_busy (e : Event) (s : State) : (emitEvent e s).busy = s.busy := rfl
@[simp] theorem emitEvent_sticky (e : Event) (s : State) : (emitEvent e s).sticky = s.sticky := rfl
@[simp] theorem emitEvent_working (e : Event) (s : State) : (emitEvent e s).working = s.working := rfl
@[simp] theorem emitEvent_fb (e : Event) (s : State) : (emitEvent e s).fb = s.fb := rfl
@[simp] theorem emitEvent_xport (e : Event) (s : State) : (emitEvent e s).xport = s.xport := rfl
@[simp] theorem emitEvent_allocOk (e : Event) (s : State) : (emitEvent e s).allocOk = s.allocOk := rfl
@[simp] theorem emitEvent_busOk (e : Event) (s : State) : (emitEvent e s).busOk = s.busOk := rfl
@[simp] theorem emitEvent_inputs (e : Event) (s : State) : (emitEvent e s).inputs = s.inputs := rfl
@[simp] theorem emitEvent_events (e : Event) (s : State) : (emitEvent e s).events = s.events ++ [e] := rfl
@[simp] theorem emitEvent_draws (e : Event) (s : State) : (emitEvent e s).draws = s.draws := rfl

@[simp] theorem respond_build (c : Code) (v : Half) (s : State) : (respond c v s).build = s.build := rfl
@[simp] theorem respond_life (c : Code) (v : Half) (s : State) : (respond c v s).life = s.life := rfl
@[simp] theorem respond_initErr (c : Code) (v : Half) (s : State) : (respond c v s).initErr = s.initErr := rfl
@[simp] theorem respond_rot (c : Code) (v : Half) (s : State) : (respond c v s).rot = s.rot := rfl
@[simp] theorem respond_dirty (c : Code) (v : Half) (s : State) : (respond c v s).dirty = s.dirty := rfl
@[simp] theorem respond_lfail (c : Code) (v : Half) (s : State) : (respond c v s).lfail = s.lfail := rfl
@[simp] theorem respond_busy (c : Code) (v : Half) (s : State) : (respond c v s).busy = s.busy := rfl
@[simp] theorem respond_sticky (c : Code) (v : Half) (s : State) : (respond c v s).sticky = s.sticky := rfl
@[simp] theorem respond_working (c : Code) (v : Half) (s : State) : (respond c v s).working = s.working := rfl
@[simp] theorem respond_fb (c : Code) (v : Half) (s : State) : (respond c v s).fb = s.fb := rfl
@[simp] theorem respond_xport (c : Code) (v : Half) (s : State) : (respond c v s).xport = s.xport := rfl
@[simp] theorem respond_allocOk (c : Code) (v : Half) (s : State) : (respond c v s).allocOk = s.allocOk := rfl
@[simp] theorem respond_busOk (c : Code) (v : Half) (s : State) : (respond c v s).busOk = s.busOk := rfl
@[simp] theorem respond_inputs (c : Code) (v : Half) (s : State) : (respond c v s).inputs = s.inputs := rfl
@[simp] theorem respond_events (c : Code) (v : Half) (s : State) : (respond c v s).events = s.events ++ [.response (responseWord c v)] := rfl
@[simp] theorem respond_draws (c : Code) (v : Half) (s : State) : (respond c v s).draws = s.draws := rfl

@[simp] theorem raiseFault_build (f : StickyBit) (s : State) : (raiseFault f s).build = s.build := rfl
@[simp] theorem raiseFault_life (f : StickyBit) (s : State) : (raiseFault f s).life = s.life := rfl
@[simp] theorem raiseFault_initErr (f : StickyBit) (s : State) : (raiseFault f s).initErr = s.initErr := rfl
@[simp] theorem raiseFault_rot (f : StickyBit) (s : State) : (raiseFault f s).rot = s.rot := rfl
@[simp] theorem raiseFault_dirty (f : StickyBit) (s : State) : (raiseFault f s).dirty = s.dirty := rfl
@[simp] theorem raiseFault_lfail (f : StickyBit) (s : State) : (raiseFault f s).lfail = s.lfail := rfl
@[simp] theorem raiseFault_busy (f : StickyBit) (s : State) : (raiseFault f s).busy = s.busy := rfl
@[simp] theorem raiseFault_sticky (f : StickyBit) (s : State) : (raiseFault f s).sticky = setSticky f s.sticky := rfl
@[simp] theorem raiseFault_working (f : StickyBit) (s : State) : (raiseFault f s).working = s.working := rfl
@[simp] theorem raiseFault_fb (f : StickyBit) (s : State) : (raiseFault f s).fb = s.fb := rfl
@[simp] theorem raiseFault_xport (f : StickyBit) (s : State) : (raiseFault f s).xport = s.xport := rfl
@[simp] theorem raiseFault_allocOk (f : StickyBit) (s : State) : (raiseFault f s).allocOk = s.allocOk := rfl
@[simp] theorem raiseFault_busOk (f : StickyBit) (s : State) : (raiseFault f s).busOk = s.busOk := rfl
@[simp] theorem raiseFault_inputs (f : StickyBit) (s : State) : (raiseFault f s).inputs = s.inputs := rfl
@[simp] theorem raiseFault_events (f : StickyBit) (s : State) : (raiseFault f s).events = s.events ++ [.response (responseWord (faultCode f) 0)] := rfl
@[simp] theorem raiseFault_draws (f : StickyBit) (s : State) : (raiseFault f s).draws = s.draws := rfl

@[simp] theorem clearFramebuffer_build (s : State) : (clearFramebuffer s).build = s.build := rfl
@[simp] theorem clearFramebuffer_life (s : State) : (clearFramebuffer s).life = s.life := rfl
@[simp] theorem clearFramebuffer_initErr (s : State) : (clearFramebuffer s).initErr = s.initErr := rfl
@[simp] theorem clearFramebuffer_rot (s : State) : (clearFramebuffer s).rot = s.rot := rfl
@[simp] theorem clearFramebuffer_dirty (s : State) : (clearFramebuffer s).dirty = s.dirty := rfl
@[simp] theorem clearFramebuffer_lfail (s : State) : (clearFramebuffer s).lfail = s.lfail := rfl
@[simp] theorem clearFramebuffer_busy (s : State) : (clearFramebuffer s).busy = s.busy := rfl
@[simp] theorem clearFramebuffer_sticky (s : State) : (clearFramebuffer s).sticky = s.sticky := rfl
@[simp] theorem clearFramebuffer_working (s : State) : (clearFramebuffer s).working = s.working := rfl
@[simp] theorem clearFramebuffer_fb (s : State) : (clearFramebuffer s).fb = s.fb.zeroBelow (fbSize s.build) := rfl
@[simp] theorem clearFramebuffer_xport (s : State) : (clearFramebuffer s).xport = s.xport := rfl
@[simp] theorem clearFramebuffer_allocOk (s : State) : (clearFramebuffer s).allocOk = s.allocOk := rfl
@[simp] theorem clearFramebuffer_busOk (s : State) : (clearFramebuffer s).busOk = s.busOk := rfl
@[simp] theorem clearFramebuffer_inputs (s : State) : (clearFramebuffer s).inputs = s.inputs := rfl
@[simp] theorem clearFramebuffer_events (s : State) : (clearFramebuffer s).events = s.events := rfl
@[simp] theorem clearFramebuffer_draws (s : State) : (clearFramebuffer s).draws = s.draws := rfl

@[simp] theorem initialised_build (s : State) : (initialised s).build = s.build := rfl
@[simp] theorem initialised_life (s : State) : (initialised s).life = .ready := rfl
@[simp] theorem initialised_initErr (s : State) : (initialised s).initErr = .none := rfl
@[simp] theorem initialised_rot (s : State) : (initialised s).rot = s.rot := rfl
@[simp] theorem initialised_dirty (s : State) : (initialised s).dirty = Dirty.sentinel := rfl
@[simp] theorem initialised_lfail (s : State) : (initialised s).lfail = s.lfail := rfl
@[simp] theorem initialised_busy (s : State) : (initialised s).busy = s.busy := rfl
@[simp] theorem initialised_sticky (s : State) : (initialised s).sticky = s.sticky := rfl
@[simp] theorem initialised_working (s : State) : (initialised s).working = s.working := rfl
@[simp] theorem initialised_fb (s : State) : (initialised s).fb = s.fb.zeroBelow (fbSize s.build) := rfl
@[simp] theorem initialised_xport (s : State) : (initialised s).xport = s.xport := rfl
@[simp] theorem initialised_allocOk (s : State) : (initialised s).allocOk = s.allocOk := rfl
@[simp] theorem initialised_busOk (s : State) : (initialised s).busOk = s.busOk := rfl
@[simp] theorem initialised_inputs (s : State) : (initialised s).inputs = s.inputs := rfl
@[simp] theorem initialised_events (s : State) : (initialised s).events = s.events := rfl
@[simp] theorem initialised_draws (s : State) : (initialised s).draws = s.draws := rfl

@[simp] theorem endFlush_build (s : State) : (endFlush s).build = s.build := rfl
@[simp] theorem endFlush_life (s : State) : (endFlush s).life = s.life := rfl
@[simp] theorem endFlush_initErr (s : State) : (endFlush s).initErr = s.initErr := rfl
@[simp] theorem endFlush_rot (s : State) : (endFlush s).rot = s.rot := rfl
@[simp] theorem endFlush_dirty (s : State) : (endFlush s).dirty = s.dirty := rfl
@[simp] theorem endFlush_lfail (s : State) : (endFlush s).lfail = s.lfail := rfl
@[simp] theorem endFlush_busy (s : State) : (endFlush s).busy = false := rfl
@[simp] theorem endFlush_sticky (s : State) : (endFlush s).sticky = s.sticky := rfl
@[simp] theorem endFlush_working (s : State) : (endFlush s).working = freeWorking s.draws := rfl
@[simp] theorem endFlush_fb (s : State) : (endFlush s).fb = s.fb := rfl
@[simp] theorem endFlush_xport (s : State) : (endFlush s).xport = s.xport := rfl
@[simp] theorem endFlush_allocOk (s : State) : (endFlush s).allocOk = s.allocOk := rfl
@[simp] theorem endFlush_busOk (s : State) : (endFlush s).busOk = s.busOk := rfl
@[simp] theorem endFlush_inputs (s : State) : (endFlush s).inputs = s.inputs := rfl
@[simp] theorem endFlush_events (s : State) : (endFlush s).events = s.events := rfl
@[simp] theorem endFlush_draws (s : State) : (endFlush s).draws = s.draws + 1 := rfl

@[simp] theorem abortFlush_build (s : State) : (abortFlush s).build = s.build := rfl
@[simp] theorem abortFlush_life (s : State) : (abortFlush s).life = s.life := rfl
@[simp] theorem abortFlush_initErr (s : State) : (abortFlush s).initErr = s.initErr := rfl
@[simp] theorem abortFlush_rot (s : State) : (abortFlush s).rot = s.rot := rfl
@[simp] theorem abortFlush_dirty (s : State) : (abortFlush s).dirty = s.dirty := rfl
@[simp] theorem abortFlush_lfail (s : State) : (abortFlush s).lfail = true := rfl
@[simp] theorem abortFlush_busy (s : State) : (abortFlush s).busy = false := rfl
@[simp] theorem abortFlush_sticky (s : State) : (abortFlush s).sticky = s.sticky := rfl
@[simp] theorem abortFlush_working (s : State) : (abortFlush s).working = freeWorking s.draws := rfl
@[simp] theorem abortFlush_fb (s : State) : (abortFlush s).fb = s.fb := rfl
@[simp] theorem abortFlush_xport (s : State) : (abortFlush s).xport = s.xport := rfl
@[simp] theorem abortFlush_allocOk (s : State) : (abortFlush s).allocOk = s.allocOk := rfl
@[simp] theorem abortFlush_busOk (s : State) : (abortFlush s).busOk = s.busOk := rfl
@[simp] theorem abortFlush_inputs (s : State) : (abortFlush s).inputs = s.inputs := rfl
@[simp] theorem abortFlush_events (s : State) : (abortFlush s).events = s.events ++ [.response (responseWord .errXfer 0)] := rfl
@[simp] theorem abortFlush_draws (s : State) : (abortFlush s).draws = s.draws + 1 := rfl

@[simp] theorem completeFlush_build (s : State) : (completeFlush s).build = s.build := rfl
@[simp] theorem completeFlush_life (s : State) : (completeFlush s).life = s.life := rfl
@[simp] theorem completeFlush_initErr (s : State) : (completeFlush s).initErr = s.initErr := rfl
@[simp] theorem completeFlush_rot (s : State) : (completeFlush s).rot = s.rot := rfl
@[simp] theorem completeFlush_dirty (s : State) : (completeFlush s).dirty = Dirty.sentinel := rfl
@[simp] theorem completeFlush_lfail (s : State) : (completeFlush s).lfail = false := rfl
@[simp] theorem completeFlush_busy (s : State) : (completeFlush s).busy = false := rfl
@[simp] theorem completeFlush_sticky (s : State) : (completeFlush s).sticky = s.sticky := rfl
@[simp] theorem completeFlush_working (s : State) : (completeFlush s).working = freeWorking s.draws := rfl
@[simp] theorem completeFlush_fb (s : State) : (completeFlush s).fb = s.fb := rfl
@[simp] theorem completeFlush_xport (s : State) : (completeFlush s).xport = s.xport := rfl
@[simp] theorem completeFlush_allocOk (s : State) : (completeFlush s).allocOk = s.allocOk := rfl
@[simp] theorem completeFlush_busOk (s : State) : (completeFlush s).busOk = s.busOk := rfl
@[simp] theorem completeFlush_inputs (s : State) : (completeFlush s).inputs = s.inputs := rfl
@[simp] theorem completeFlush_events (s : State) : (completeFlush s).events = s.events ++ [.response (responseWord .ok 0)] := rfl
@[simp] theorem completeFlush_draws (s : State) : (completeFlush s).draws = s.draws + 1 := rfl

@[simp] theorem resetBlock_build (s : State) : (resetBlock s).build = s.build := rfl
@[simp] theorem resetBlock_life (s : State) : (resetBlock s).life = .uninit := rfl
@[simp] theorem resetBlock_initErr (s : State) : (resetBlock s).initErr = .none := rfl
@[simp] theorem resetBlock_rot (s : State) : (resetBlock s).rot = .deg0 := rfl
@[simp] theorem resetBlock_dirty (s : State) : (resetBlock s).dirty = Dirty.sentinel := rfl
@[simp] theorem resetBlock_lfail (s : State) : (resetBlock s).lfail = false := rfl
@[simp] theorem resetBlock_busy (s : State) : (resetBlock s).busy = false := rfl
@[simp] theorem resetBlock_sticky (s : State) : (resetBlock s).sticky = ⟨false, false, false, false, false, false⟩ := rfl
@[simp] theorem resetBlock_working (s : State) : (resetBlock s).working = ⟨.select, 0, 0, 0, 0, 0, 0, 0⟩ := rfl
@[simp] theorem resetBlock_fb (s : State) : (resetBlock s).fb = [] := rfl
@[simp] theorem resetBlock_xport (s : State) : (resetBlock s).xport = s.xport := rfl
@[simp] theorem resetBlock_allocOk (s : State) : (resetBlock s).allocOk = s.allocOk := rfl
@[simp] theorem resetBlock_busOk (s : State) : (resetBlock s).busOk = s.busOk := rfl
@[simp] theorem resetBlock_inputs (s : State) : (resetBlock s).inputs = s.inputs := rfl
@[simp] theorem resetBlock_events (s : State) : (resetBlock s).events = s.events ++ abandonedEvents s := rfl
@[simp] theorem resetBlock_draws (s : State) : (resetBlock s).draws = s.draws := rfl

@[simp] theorem signalReset_false (s : State) : signalReset false s = s := rfl

@[simp] theorem signalReset_true (s : State) : signalReset true s = emitEvent .extRstReq s := rfl

end Sys2Proof.Machine
end

