-- ==== Sys2Proof/Laws/Memory.lean ====
section
/-! SUPPORT. The framebuffer: reading after writing, and that every memory operation keeps the canonical form and the
address range. -/

namespace Sys2Proof.Machine

@[simp] theorem Memory.read_nil (a : Nat) : Memory.read [] a = Memory.unlisted := rfl

theorem Memory.read_cons (k : Nat) (v : Byte) (m : Memory) (a : Nat) :
    Memory.read ((k, v) :: m) a = if a = k then v else Memory.read m a := rfl

/-- An address that no entry lists reads as the unlisted byte. -/
theorem Memory.read_of_forall_ne (m : Memory) (a : Nat) (h : ∀ c ∈ m, c.1 ≠ a) : m.read a = Memory.unlisted := by
  induction m with
  | nil => rfl
  | cons c m ih =>
    obtain ⟨k, v⟩ := c
    have hk : a ≠ k := fun e => h (k, v) (by simp) e.symm
    rw [Memory.read_cons, if_neg hk]
    exact ih fun c hc => h c (by simp [hc])

theorem Memory.read_entry (a b : Nat) (v : Byte) (m : Memory) (h : m.read a = Memory.unlisted) :
    (Memory.entry a v m).read b = if b = a then v else m.read b := by
  unfold Memory.entry
  split
  · rename_i hv
    by_cases hb : b = a
    · simp [hb, h, hv]
    · simp [hb]
  · rfl

/-- Reading after writing: the written address gives the value, every other address what it gave. The memory's
addresses rise. -/
theorem Memory.read_write (m : Memory) (a b : Nat) (v : Byte) (hm : m.Pairwise fun c d => c.1 < d.1) :
    (m.write a v).read b = if b = a then v else m.read b := by
  induction m with
  | nil => exact Memory.read_entry a b v [] rfl
  | cons c m ih =>
    obtain ⟨k, u⟩ := c
    rw [List.pairwise_cons] at hm
    have htail : ∀ a', a' ≤ k → Memory.read m a' = Memory.unlisted := fun a' h =>
      Memory.read_of_forall_ne m a' fun d hd e => by have := hm.1 d hd; simp only at this; omega
    unfold Memory.write
    split
    · rename_i hak
      refine Memory.read_entry a b v _ ?_
      rw [Memory.read_cons, if_neg (by omega)]
      exact htail a (by omega)
    · split
      · rename_i hak
        rw [Memory.read_entry a b v m (htail a (by omega)), Memory.read_cons]
        split <;> simp_all
      · rename_i hak hne
        rw [Memory.read_cons, Memory.read_cons, ih hm.2]
        split
        · rename_i hbk
          rw [if_neg (by omega)]
        · rfl

/-- An entry of a written memory is the written one or an old one. -/
theorem Memory.mem_write (m : Memory) (a : Nat) (v : Byte) (c : Host.Cell) (h : c ∈ m.write a v) :
    (c = (a, v) ∧ v ≠ Memory.unlisted) ∨ c ∈ m := by
  have entry_mem : ∀ n : Memory, c ∈ Memory.entry a v n → (c = (a, v) ∧ v ≠ Memory.unlisted) ∨ c ∈ n := by
    intro n hn
    unfold Memory.entry at hn
    split at hn
    · exact .inr hn
    · rename_i hv
      rcases List.mem_cons.1 hn with e | e
      · exact .inl ⟨e, hv⟩
      · exact .inr e
  induction m with
  | nil => exact entry_mem [] h
  | cons d m ih =>
    obtain ⟨k, u⟩ := d
    unfold Memory.write at h
    split at h
    · exact entry_mem _ h
    · split at h
      · exact (entry_mem m h).imp id (List.mem_cons_of_mem _)
      · rcases List.mem_cons.1 h with e | e
        · exact .inr (by simp [e])
        · exact (ih e).imp id (List.mem_cons_of_mem _)

/-- A write keeps the canonical form. -/
theorem Memory.wf_write (m : Memory) (a : Nat) (v : Byte) (h : m.wf) : (m.write a v).wf := by
  refine ⟨?_, fun c hc => ?_⟩
  · have key : ∀ n : Memory, n.Pairwise (fun c d => c.1 < d.1) → (∀ d ∈ n, a < d.1) →
        (Memory.entry a v n).Pairwise fun c d => c.1 < d.1 := by
      intro n hn hlt
      unfold Memory.entry
      split
      · exact hn
      · exact List.pairwise_cons.2 ⟨hlt, hn⟩
    have hm := h.1
    clear h
    induction m with
    | nil => exact key [] List.Pairwise.nil (by simp)
    | cons d m ih =>
      obtain ⟨k, u⟩ := d
      have hc := List.pairwise_cons.1 hm
      unfold Memory.write
      split
      · rename_i hak
        refine key _ hm fun d hd => ?_
        rcases List.mem_cons.1 hd with e | e
        · simp [e, hak]
        · exact lt_trans hak (hc.1 d e)
      · split
        · rename_i hak
          exact key m hc.2 fun d hd => by simpa [hak] using hc.1 d hd
        · rename_i hak hne
          refine List.pairwise_cons.2 ⟨fun d hd => ?_, ih hc.2⟩
          rcases Memory.mem_write m a v d hd with ⟨rfl, -⟩ | e
          · simp only; omega
          · exact hc.1 d e
  · rcases Memory.mem_write m a v c hc with ⟨rfl, hv⟩ | e
    · exact hv
    · exact h.2 c e

theorem Memory.range_write (m : Memory) (a n : Nat) (v : Byte) (h : ∀ c ∈ m, c.1 < n) (ha : a < n) :
    ∀ c ∈ m.write a v, c.1 < n := by
  intro c hc
  rcases Memory.mem_write m a v c hc with ⟨rfl, -⟩ | e
  · exact ha
  · exact h c e

/-- The zeroed memory reads 0x00 below the bound and as before from it up. -/
theorem Memory.read_zeroBelow (m : Memory) (n a : Nat) :
    (m.zeroBelow n).read a = if a < n then Memory.unlisted else m.read a := by
  unfold Memory.zeroBelow
  induction m with
  | nil => simp
  | cons c m ih =>
    obtain ⟨k, v⟩ := c
    by_cases hk : n ≤ k
    · rw [List.filter_cons_of_pos (by simpa using hk), Memory.read_cons, ih, Memory.read_cons]
      split
      · rw [if_neg (by omega)]
      · rfl
    · rw [List.filter_cons_of_neg (by simpa using hk), ih, Memory.read_cons]
      split
      · rfl
      · rw [if_neg (by omega)]

theorem Memory.wf_zeroBelow (m : Memory) (n : Nat) (h : m.wf) : (m.zeroBelow n).wf :=
  ⟨List.Pairwise.filter _ h.1, fun c hc => h.2 c (List.mem_of_mem_filter hc)⟩

/-- A memory whose addresses are all below the bound is emptied. -/
theorem Memory.zeroBelow_eq_nil (m : Memory) (n : Nat) (h : ∀ c ∈ m, c.1 < n) : m.zeroBelow n = [] := by
  unfold Memory.zeroBelow
  rw [List.filter_eq_nil_iff]
  intro c hc
  have := h c hc
  simpa using this

/-- `zeroBelow` is the loop of 41_pixel.md R167: 0x00 written at every address below the bound. -/
theorem Memory.zeroBelow_succ (m : Memory) (n : Nat) (hm : m.wf) :
    m.zeroBelow (n + 1) = (m.zeroBelow n).write n Memory.unlisted := by
  unfold Memory.zeroBelow
  obtain ⟨hm, -⟩ := hm
  induction m with
  | nil => simp [Memory.write, Memory.entry]
  | cons c m ih =>
    obtain ⟨k, v⟩ := c
    have hc := List.pairwise_cons.1 hm
    have hall : n ≤ k → ∀ d ∈ m, n + 1 ≤ d.1 := fun h d hd => by
      have := hc.1 d hd
      simp only at this
      omega
    rcases Nat.lt_trichotomy k n with hk | hk | hk
    · rw [List.filter_cons_of_neg (by simpa using by omega), List.filter_cons_of_neg (by simpa using hk)]
      exact ih hc.2
    · subst hk
      rw [List.filter_cons_of_neg (by simp), List.filter_cons_of_pos (by simp)]
      have e1 : List.filter (fun c : Host.Cell => decide (k + 1 ≤ c.1)) m = m :=
        List.filter_eq_self.2 fun d hd => by simpa using hall (Nat.le_refl k) d hd
      have e2 : List.filter (fun c : Host.Cell => decide (k ≤ c.1)) m = m :=
        List.filter_eq_self.2 fun d hd => by
          have := hall (Nat.le_refl k) d hd
          simp only [decide_eq_true_eq]
          omega
      rw [e1, e2]
      simp [Memory.write, Memory.entry]
    · rw [List.filter_cons_of_pos (by simpa using hk), List.filter_cons_of_pos (by simpa using by omega)]
      have e1 : List.filter (fun c : Host.Cell => decide (n + 1 ≤ c.1)) m = m :=
        List.filter_eq_self.2 fun d hd => by simpa using hall (by omega) d hd
      have e2 : List.filter (fun c : Host.Cell => decide (n ≤ c.1)) m = m :=
        List.filter_eq_self.2 fun d hd => by
          have := hall (by omega) d hd
          simp only [decide_eq_true_eq]
          omega
      rw [e1, e2]
      simp [Memory.write, Memory.entry, hk]

/-- The loop of MemWrite(a, 1, 0x00) for a = 0 .. n - 1 gives `zeroBelow`. -/
theorem Memory.zeroBelow_eq_loop (m : Memory) (n : Nat) (hm : m.wf) :
    (List.range n).foldl (fun m a => m.write a Memory.unlisted) m = m.zeroBelow n := by
  induction n with
  | zero =>
    unfold Memory.zeroBelow
    rw [List.filter_eq_self.2 (fun c _ => by simp)]
    rfl
  | succ n ih => rw [List.range_succ, List.foldl_append, ih, Memory.zeroBelow_succ m n hm]; rfl

theorem memRead_of_lt (s : State) (a : Nat) (h : a < fbSize s.build) : memRead s a = some (s.fb.read a) := if_pos h

theorem memWrite_of_lt (s : State) (a : Nat) (v : Byte) (h : a < fbSize s.build) :
    memWrite s a v = some { s with fb := s.fb.write a v } := if_pos h

theorem memReadRange_of_le (s : State) (a n : Nat) (h : a + n ≤ fbSize s.build) :
    memReadRange s a n = some (bytesAt s.fb a n) := if_pos h

end Sys2Proof.Machine
end

