-- ==== Sys2Proof/Laws/Tracker.lean ====
section
/-! SUPPORT. The tracker's micro-operations read as integers, and the rectangle invariant (10_state.md R39). -/

namespace Sys2Proof.Machine

theorem toInt_ofInt_half (v : Int) (h : -32768 ≤ v ∧ v ≤ 32767) : (BitVec.ofInt 16 v).toInt = v := by
  rw [BitVec.toInt_ofInt, Int.bmod_eq_of_le] <;> omega

theorem toInt_ofNat_half (n : Nat) (h : n ≤ 32767) : (BitVec.ofNat 16 n).toInt = n := by
  rw [← BitVec.ofInt_natCast, toInt_ofInt_half] ; omega

theorem toInt_signedMin (a b : Half) : (signedMin a b).toInt = min a.toInt b.toInt := by
  unfold signedMin; split <;> omega

theorem toInt_signedMax (a b : Half) : (signedMax a b).toInt = max a.toInt b.toInt := by
  unfold signedMax; split <;> omega

@[simp] theorem sentinel_dx1 : Dirty.sentinel.dx1.toInt = 32767 := by decide
@[simp] theorem sentinel_dy1 : Dirty.sentinel.dy1.toInt = 32767 := by decide
@[simp] theorem sentinel_dx2 : Dirty.sentinel.dx2.toInt = -1 := by decide
@[simp] theorem sentinel_dy2 : Dirty.sentinel.dy2.toInt = -1 := by decide

theorem physical_coord (b : Build) (x y : Int) (h : InPhysicalRange b x y) :
    (0 ≤ x ∧ x ≤ 255) ∧ (0 ≤ y ∧ y ≤ 127) := by
  have := b.w_range
  have := b.h_range
  omega

/-- `markDirty` of a point of the buffer widens the rectangle by it. -/
theorem markDirty_widens (b : Build) (x y : Int) (d : Dirty) (h : InPhysicalRange b x y) :
    WidenedBy x y d (markDirty x y d) := by
  have hc := physical_coord b x y h
  have hx := toInt_ofInt_half x (by omega)
  have hy := toInt_ofInt_half y (by omega)
  simp only [WidenedBy, markDirty, toInt_signedMin, toInt_signedMax, hx, hy, and_self]

/-- A rectangle widened by a point of the buffer meets the invariant when it did before. -/
theorem dirtyOk_of_widened (b : Build) (x y : Int) (d e : Dirty) (h : InPhysicalRange b x y) (hd : DirtyOk b d)
    (hw : WidenedBy x y d e) : DirtyOk b e := by
  obtain ⟨h1, h2, h3, h4⟩ := hw
  have hc := physical_coord b x y h
  refine .inr ?_
  rcases hd with rfl | hd
  · simp only [sentinel_dx1, sentinel_dy1, sentinel_dx2, sentinel_dy2] at h1 h2 h3 h4
    omega
  · omega

theorem dirtyOk_sentinel (b : Build) : DirtyOk b Dirty.sentinel := .inl rfl

theorem dirtyFull_toInt (b : Build) :
    (dirtyFull b).dx1.toInt = 0 ∧ (dirtyFull b).dy1.toInt = 0 ∧
      (dirtyFull b).dx2.toInt = b.w - 1 ∧ (dirtyFull b).dy2.toInt = b.h - 1 := by
  have := b.w_range
  have := b.h_range
  refine ⟨by simp [dirtyFull], by simp [dirtyFull], ?_, ?_⟩
  · rw [dirtyFull, toInt_ofNat_half _ (by omega)]; omega
  · rw [dirtyFull, toInt_ofNat_half _ (by omega)]; omega

theorem dirtyOk_full (b : Build) : DirtyOk b (dirtyFull b) := by
  obtain ⟨h1, h2, h3, h4⟩ := dirtyFull_toInt b
  have := b.w_range
  have := b.h_range
  exact .inr (by omega)

@[simp] theorem dirtyEmpty_sentinel : dirtyEmpty Dirty.sentinel = true := by decide

/-- The bounds of a non-empty rectangle that meets the invariant. -/
theorem bounds_of_nonempty (b : Build) (d : Dirty) (hd : DirtyOk b d) (hn : dirtyEmpty d = false) :
    (0 ≤ d.dx1.toInt ∧ d.dx1.toInt ≤ d.dx2.toInt ∧ d.dx2.toInt ≤ b.w - 1) ∧
      (0 ≤ d.dy1.toInt ∧ d.dy1.toInt ≤ d.dy2.toInt ∧ d.dy2.toInt ≤ b.h - 1) := by
  rcases hd with rfl | hd
  · simp at hn
  · exact hd

end Sys2Proof.Machine
end

