-- ==== Sys2Proof/Laws/Operands.lean ====
section
/-! SUPPORT. The transform stays in the buffer, a physical pixel's byte is in the framebuffer, and a pixel's mask
touches one bit. -/

namespace Sys2Proof.Machine

theorem transform_inPhysicalRange (b : Build) (r : Rotation) (x y : Int) (h : InLogicalRange b r x y) :
    InPhysicalRange b (transform b r x y).1 (transform b r x y).2 := by
  cases r <;> simp only [InLogicalRange, InPhysicalRange, transform, logicalWidth, logicalHeight] at * <;> omega

/-- FBSIZE is at most 4096 (00_scope.md R9). -/
theorem fbSize_le (b : Build) : fbSize b ≤ 4096 := by
  have := b.w_range
  have := b.h_range
  have hp : pages b ≤ 16 := by unfold pages; omega
  exact Nat.mul_le_mul hp (by omega : b.w ≤ 256)

/-- The byte of column `c` of page `p` is in the framebuffer. -/
theorem page_column_lt (b : Build) (p c : Nat) (hp : p < pages b) (hc : c < b.w) : p * b.w + c < fbSize b := by
  have : (p + 1) * b.w ≤ pages b * b.w := Nat.mul_le_mul_right _ hp
  rw [Nat.succ_mul] at this
  unfold fbSize
  omega

theorem pixelAddr_eq (b : Build) (px py : Int) (h : InPhysicalRange b px py) :
    pixelAddr b px py = (py / 8).toNat * b.w + px.toNat := by
  have hy : py / 8 = ((py / 8).toNat : Int) := by omega
  unfold pixelAddr
  rw [hy, Int.toNat_natCast, show px + ((py / 8).toNat : Int) * b.w = ((py / 8).toNat * b.w + px.toNat : Nat) by
    push_cast; omega, Int.toNat_natCast]

/-- A physical pixel's byte is in the framebuffer (20_memory.md R71: "by construction"). -/
theorem pixelAddr_lt (b : Build) (px py : Int) (h : InPhysicalRange b px py) : pixelAddr b px py < fbSize b := by
  rw [pixelAddr_eq b px py h]
  exact page_column_lt b _ _ (by unfold pages; omega) (by omega)

theorem pixelBit_lt (py : Int) : pixelBit py < 8 := by unfold pixelBit; omega

theorem pixelMask_getLsbD (py : Int) (k : Nat) : (pixelMask py).getLsbD k = decide (k = pixelBit py) := by
  have := pixelBit_lt py
  unfold pixelMask
  generalize pixelBit py = n at *
  by_cases hk : k < 8
  · interval_cases n <;> interval_cases k <;> rfl
  · rw [BitVec.getLsbD_of_ge _ _ (by omega)]
    simp only [Bool.false_eq, decide_eq_false_iff_not]
    omega

end Sys2Proof.Machine
end

