-- ==== Sys2Proof/Laws/Commands.lean ====
section
/-! SUPPORT. One lemma for each shared operation of the commands, and once everything a command can do. -/

namespace Sys2Proof.Machine

/-- The response word as a number: the code above 24 bits, the data below 16 (30_encoding.md R110). -/
theorem responseWord_toNat (c : Code) (v : Half) :
    (responseWord c v).toNat = (codeByte c).toNat * 2 ^ 24 + v.toNat := by
  have hv := v.isLt
  have hc := (codeByte c).isLt
  simp only [responseWord, BitVec.toNat_append]
  rw [← Nat.shiftLeft_add_eq_or_of_lt hv, ← Nat.shiftLeft_add_eq_or_of_lt (by decide)]
  simp only [Nat.shiftLeft_eq, BitVec.toNat_ofNat]
  omega

/-- With CODE = OK the response word is the data. -/
theorem responseWord_ok (v : Half) : responseWord .ok v = v.setWidth 32 := by
  have hv := v.isLt
  apply BitVec.eq_of_toNat_eq
  rw [responseWord_toNat, BitVec.toNat_setWidth]
  simp only [show (codeByte .ok).toNat = 0 from rfl]
  omega

/-- The CODE field of a response word (30_encoding.md R110). -/
theorem responseWord_code (c : Code) (v : Half) : (responseWord c v).extractLsb' 24 8 = codeByte c := by
  have hv := v.isLt
  have hc := (codeByte c).isLt
  apply BitVec.eq_of_toNat_eq
  simp only [BitVec.extractLsb'_toNat, responseWord_toNat, Nat.shiftRight_eq_div_pow]
  omega

theorem accept_busy (need : LifeNeed) (s : State) (k : State → Result) (h : s.busy = true) :
    accept need s k = .next (raiseFault .fBusy s) := by simp [accept, h]

theorem accept_fault (need : LifeNeed) (s : State) (k : State → Result) (f : StickyBit) (hb : s.busy = false)
    (h : lifeFault need s.life = some f) : accept need s k = .next (raiseFault f s) := by simp [accept, hb, h]

theorem accept_passes (need : LifeNeed) (s : State) (k : State → Result) (hb : s.busy = false)
    (h : lifeFault need s.life = none) : accept need s k = k s := by simp [accept, hb, h]

/-- A command of READY that passes its checks performs its rule. -/
theorem accept_ready (s : State) (k : State → Result) (hb : s.busy = false) (hr : s.life = .ready) :
    accept .ready s k = k s := accept_passes _ s k hb (by rw [hr]; rfl)

theorem accept_any (s : State) (k : State → Result) (hb : s.busy = false) : accept .any s k = k s :=
  accept_passes _ s k hb rfl

theorem accept_uninit (s : State) (k : State → Result) (hb : s.busy = false) (hu : s.life = .uninit) :
    accept .uninit s k = k s := accept_passes _ s k hb (by rw [hu]; rfl)

/-- What the shared checks do: F_BUSY, the lifecycle's fault, or the command's rule in a state that passes. -/
theorem accept_cases (need : LifeNeed) (s : State) (k : State → Result) :
    (s.busy = true ∧ accept need s k = .next (raiseFault .fBusy s)) ∨
      (∃ f, s.busy = false ∧ lifeFault need s.life = some f ∧ accept need s k = .next (raiseFault f s)) ∨
      (s.busy = false ∧ lifeFault need s.life = none ∧ accept need s k = k s) := by
  cases hb : s.busy with
  | true => exact .inl ⟨rfl, accept_busy need s k hb⟩
  | false =>
    cases hf : lifeFault need s.life with
    | none => exact .inr (.inr ⟨rfl, rfl, accept_passes need s k hb hf⟩)
    | some f => exact .inr (.inl ⟨f, rfl, rfl, accept_fault need s k f hb hf⟩)

theorem life_of_need_ready (s : State) (h : lifeFault .ready s.life = none) : s.life = .ready := by
  cases hl : s.life <;> rw [hl] at h <;> first | rfl | cases h

theorem life_of_need_uninit (s : State) (h : lifeFault .uninit s.life = none) : s.life = .uninit := by
  cases hl : s.life <;> rw [hl] at h <;> first | rfl | cases h

/-! Each command as its checks and its rule. -/

theorem exec_nop (s : State) : exec .nop s = accept .any s fun s => .next (respond .ok 0 s) := rfl

theorem exec_rot (r : Rotation) (s : State) :
    exec (.rot r) s = accept .any s fun s => .next (respond .ok 0 { s with rot := r }) := rfl

theorem exec_init (rst : Bool) (s : State) : exec (.init rst) s = accept .uninit s fun s =>
    if s.allocOk = false then .next (respond .errAlloc 0 { s with life := .failed, initErr := .allocation })
    else if s.busOk = false then .next (respond .errBusInit 0 { s with life := .failed, initErr := .busInit })
    else .next (respond .ok 0 (signalReset rst (initialised s))) := rfl

theorem exec_setpixClear (x y : Int) (s : State) :
    exec (.setpixClear x y) s = accept .ready s (setPixel .clear x y) := rfl

theorem exec_setpixSet (x y : Int) (s : State) :
    exec (.setpixSet x y) s = accept .ready s (setPixel .set x y) := rfl

theorem exec_setpixInvert (x y : Int) (s : State) :
    exec (.setpixInvert x y) s = accept .ready s (setPixel .invert x y) := rfl

theorem exec_clear (s : State) : exec .clear s = accept .ready s fun s =>
    .next (respond .ok 0 { clearFramebuffer s with dirty := dirtyFull s.build }) := rfl

theorem exec_mark (x y : Int) (s : State) : exec (.mark x y) s = accept .ready s fun s =>
    if InPhysicalRange s.build x y then .next (respond .ok 0 { s with dirty := markDirty x y s.dirty })
    else .next (respond .ok 0 s) := rfl

theorem exec_flush (s : State) : exec .flush s = accept .ready s fun s =>
    if dirtyEmpty s.dirty then .next (respond .ok 0 { s with lfail := false })
    else if s.xport.ready = false ∨ s.xport.maxbuf.toNat < 4 then .next (raiseFault .fXport s)
    else .next { s with working := flushSetup s, busy := true } := rfl

/-- FBRD after its lifecycle checks: F_ADDR, or the byte. -/
theorem exec_fbrd (addr : Nat) (s : State) : exec (.fbrd addr) s = accept .ready s fun s =>
    if fbSize s.build ≤ addr then .next (raiseFault .fAddr s)
    else .next (respond .ok ((s.fb.read addr).setWidth 16) s) := by
  show execFbrd addr s = _
  unfold execFbrd
  congr 1
  funext t
  by_cases h : fbSize t.build ≤ addr
  · simp only [if_pos h]
  · simp only [if_neg h, memRead_of_lt t _ (Nat.lt_of_not_le h)]

/-- FBWR after its lifecycle checks: F_ADDR, or the write. -/
theorem exec_fbwr (addr : Nat) (byte : Byte) (s : State) : exec (.fbwr addr byte) s = accept .ready s fun s =>
    if fbSize s.build ≤ addr then .next (raiseFault .fAddr s)
    else .next (respond .ok 0 { s with fb := s.fb.write addr byte }) := by
  show execFbwr addr byte s = _
  unfold execFbwr
  congr 1
  funext t
  by_cases h : fbSize t.build ≤ addr
  · simp only [if_pos h]
  · simp only [if_neg h, memWrite_of_lt t _ _ (Nat.lt_of_not_le h)]

/-- GETPIX after its lifecycle checks: the pixel's bit, or 0 out of range. -/
theorem exec_getpix (x y : Int) (s : State) : exec (.getpix x y) s = accept .ready s fun s =>
    if InLogicalRange s.build s.rot x y then
      let p := transform s.build s.rot x y
      .next (respond .ok (((s.fb.read (pixelAddr s.build p.1 p.2) >>> pixelBit p.2) &&& 1#8).setWidth 16) s)
    else .next (respond .ok 0 s) := by
  show execGetpix x y s = _
  unfold execGetpix
  congr 1
  funext t
  by_cases h : InLogicalRange t.build t.rot x y
  · have ha := pixelAddr_lt t.build _ _ (transform_inPhysicalRange t.build t.rot x y h)
    simp only [if_pos h, memRead_of_lt t _ ha]
  · simp only [if_neg h]

/-- The state an in-range SETPIX leaves. -/
def pixelWritten (mode : PixelMode) (x y : Int) (s : State) : State :=
  let p := transform s.build s.rot x y
  let a := pixelAddr s.build p.1 p.2
  respond .ok 0
    { s with
      fb := s.fb.write a (applyMode mode (pixelMask p.2) (s.fb.read a))
      dirty := markDirty p.1 p.2 s.dirty }

theorem setPixel_inRange (mode : PixelMode) (x y : Int) (s : State) (h : InLogicalRange s.build s.rot x y) :
    setPixel mode x y s = .next (pixelWritten mode x y s) := by
  have ha := pixelAddr_lt s.build _ _ (transform_inPhysicalRange s.build s.rot x y h)
  simp only [setPixel, if_pos h, memRead_of_lt s _ ha, memWrite_of_lt s _ _ ha, pixelWritten]

theorem setPixel_clipped (mode : PixelMode) (x y : Int) (s : State) (h : ¬ InLogicalRange s.build s.rot x y) :
    setPixel mode x y s = .next (respond .ok 0 s) := by simp only [setPixel, if_neg h]

/-- Everything a command can do to the state. -/
inductive CommandChange : Instr → State → State → Prop where
  /-- a fault: F_BUSY, the lifecycle's, F_ADDR, F_XPORT or F_ILL -/
  | faults (i : Instr) (s : State) (f : StickyBit) : CommandChange i s (raiseFault f s)
  /-- a response OK and nothing else -/
  | responds (i : Instr) (s : State) (v : Half) : CommandChange i s (respond .ok v s)
  | rotates (r : Rotation) (s : State) (hb : s.busy = false) :
      CommandChange (.rot r) s (respond .ok 0 { s with rot := r })
  | initFailsAlloc (rst : Bool) (s : State) (hb : s.busy = false) (hl : s.life = .uninit) :
      CommandChange (.init rst) s (respond .errAlloc 0 { s with life := .failed, initErr := .allocation })
  | initFailsBus (rst : Bool) (s : State) (hb : s.busy = false) (hl : s.life = .uninit) :
      CommandChange (.init rst) s (respond .errBusInit 0 { s with life := .failed, initErr := .busInit })
  | initialises (rst : Bool) (s : State) (hb : s.busy = false) (hl : s.life = .uninit) :
      CommandChange (.init rst) s (respond .ok 0 (signalReset rst (initialised s)))
  | setsPixel (i : Instr) (mode : PixelMode) (x y : Int) (s : State) (hb : s.busy = false) (hl : s.life = .ready)
      (hi : i = .setpixClear x y ∨ i = .setpixSet x y ∨ i = .setpixInvert x y)
      (h : InLogicalRange s.build s.rot x y) : CommandChange i s (pixelWritten mode x y s)
  | clears (s : State) (hb : s.busy = false) (hl : s.life = .ready) :
      CommandChange .clear s (respond .ok 0 { clearFramebuffer s with dirty := dirtyFull s.build })
  | marks (x y : Int) (s : State) (hb : s.busy = false) (hl : s.life = .ready) (h : InPhysicalRange s.build x y) :
      CommandChange (.mark x y) s (respond .ok 0 { s with dirty := markDirty x y s.dirty })
  | stores (addr : Nat) (byte : Byte) (s : State) (hb : s.busy = false) (hl : s.life = .ready)
      (h : addr < fbSize s.build) :
      CommandChange (.fbwr addr byte) s (respond .ok 0 { s with fb := s.fb.write addr byte })
  | flushesNothing (s : State) (hb : s.busy = false) (hl : s.life = .ready) (h : dirtyEmpty s.dirty = true) :
      CommandChange .flush s (respond .ok 0 { s with lfail := false })
  | startsFlush (s : State) (hb : s.busy = false) (hl : s.life = .ready) (h : dirtyEmpty s.dirty = false)
      (hx : s.xport.ready = true) (hm : 4 ≤ s.xport.maxbuf.toNat) :
      CommandChange .flush s { s with working := flushSetup s, busy := true }

/-- A command behind the shared checks: each outcome of its rule is a change, so each of its outcomes is. -/
theorem change_of_accept (i : Instr) (need : LifeNeed) (s : State) (k : State → Result)
    (hk : s.busy = false → lifeFault need s.life = none → ∃ t, k s = .next t ∧ CommandChange i s t) :
    ∃ t, accept need s k = .next t ∧ CommandChange i s t := by
  rcases accept_cases need s k with ⟨-, h⟩ | ⟨f, -, -, h⟩ | ⟨hb, hl, h⟩
  · exact ⟨_, h, .faults i s .fBusy⟩
  · exact ⟨_, h, .faults i s f⟩
  · obtain ⟨t, ht, hc⟩ := hk hb hl
    exact ⟨t, by rw [h, ht], hc⟩

theorem setPixel_change (i : Instr) (mode : PixelMode) (x y : Int) (s : State)
    (hi : i = .setpixClear x y ∨ i = .setpixSet x y ∨ i = .setpixInvert x y) :
    ∃ t, accept .ready s (setPixel mode x y) = .next t ∧ CommandChange i s t := by
  refine change_of_accept i .ready s _ fun hb hl => ?_
  have hr := life_of_need_ready s hl
  by_cases h : InLogicalRange s.build s.rot x y
  · exact ⟨_, setPixel_inRange mode x y s h, .setsPixel i mode x y s hb hr hi h⟩
  · exact ⟨_, setPixel_clipped mode x y s h, .responds i s 0⟩

/-- Every command answers a next state, one of the changes above. -/
theorem exec_change (i : Instr) (s : State) : ∃ t, exec i s = .next t ∧ CommandChange i s t := by
  cases i with
  | nop =>
    show ∃ t, execNop s = .next t ∧ _
    unfold execNop
    exact change_of_accept _ _ s _ fun _ _ => ⟨_, rfl, .responds _ s 0⟩
  | init rst =>
    show ∃ t, execInit rst s = .next t ∧ _
    unfold execInit
    refine change_of_accept _ .uninit s _ fun hb hl => ?_
    have hu := life_of_need_uninit s hl
    by_cases ha : s.allocOk = false
    · exact ⟨_, if_pos ha, .initFailsAlloc rst s hb hu⟩
    · by_cases hbus : s.busOk = false
      · exact ⟨_, (if_neg ha).trans (if_pos hbus), .initFailsBus rst s hb hu⟩
      · exact ⟨_, (if_neg ha).trans (if_neg hbus), .initialises rst s hb hu⟩
  | rot r =>
    show ∃ t, execRot r s = .next t ∧ _
    unfold execRot
    exact change_of_accept _ _ s _ fun hb _ => ⟨_, rfl, .rotates r s hb⟩
  | setpixClear x y => exact setPixel_change _ .clear x y s (.inl rfl)
  | setpixSet x y => exact setPixel_change _ .set x y s (.inr (.inl rfl))
  | setpixInvert x y => exact setPixel_change _ .invert x y s (.inr (.inr rfl))
  | getpix x y =>
    show ∃ t, execGetpix x y s = .next t ∧ _
    unfold execGetpix
    refine change_of_accept _ .ready s _ fun hb hl => ?_
    by_cases h : InLogicalRange s.build s.rot x y
    · have ha := pixelAddr_lt s.build _ _ (transform_inPhysicalRange s.build s.rot x y h)
      simp only [if_pos h, memRead_of_lt s _ ha]
      exact ⟨_, rfl, .responds _ s _⟩
    · exact ⟨_, if_neg h, .responds _ s 0⟩
  | clear =>
    show ∃ t, execClear s = .next t ∧ _
    unfold execClear
    exact change_of_accept _ _ s _ fun hb hl => ⟨_, rfl, .clears s hb (life_of_need_ready s hl)⟩
  | mark x y =>
    show ∃ t, execMark x y s = .next t ∧ _
    unfold execMark
    refine change_of_accept _ .ready s _ fun hb hl => ?_
    by_cases h : InPhysicalRange s.build x y
    · exact ⟨_, if_pos h, .marks x y s hb (life_of_need_ready s hl) h⟩
    · exact ⟨_, if_neg h, .responds _ s 0⟩
  | flush =>
    show ∃ t, execFlush s = .next t ∧ _
    unfold execFlush
    refine change_of_accept _ .ready s _ fun hb hl => ?_
    have hr := life_of_need_ready s hl
    cases he : dirtyEmpty s.dirty with
    | true => exact ⟨_, by simp only [if_true], .flushesNothing s hb hr he⟩
    | false =>
      by_cases hx : s.xport.ready = false ∨ s.xport.maxbuf.toNat < 4
      · exact ⟨_, by simp only [Bool.false_eq_true, if_false, if_pos hx], .faults _ s .fXport⟩
      · refine ⟨_, by simp only [Bool.false_eq_true, if_false, if_neg hx], .startsFlush s hb hr he ?_ ?_⟩
        · cases h : s.xport.ready with
          | true => rfl
          | false => exact absurd (.inl h) hx
        · exact Nat.le_of_not_lt fun h => hx (.inr h)
  | fbrd addr =>
    show ∃ t, execFbrd addr s = .next t ∧ _
    unfold execFbrd
    refine change_of_accept _ .ready s _ fun hb hl => ?_
    by_cases h : fbSize s.build ≤ addr
    · exact ⟨_, if_pos h, .faults _ s .fAddr⟩
    · simp only [if_neg h, memRead_of_lt s _ (Nat.lt_of_not_le h)]
      exact ⟨_, rfl, .responds _ s _⟩
  | fbwr addr byte =>
    show ∃ t, execFbwr addr byte s = .next t ∧ _
    unfold execFbwr
    refine change_of_accept _ .ready s _ fun hb hl => ?_
    by_cases h : fbSize s.build ≤ addr
    · exact ⟨_, if_pos h, .faults _ s .fAddr⟩
    · simp only [if_neg h, memWrite_of_lt s _ _ (Nat.lt_of_not_le h)]
      exact ⟨_, rfl, .stores addr byte s hb (life_of_need_ready s hl) (Nat.lt_of_not_le h)⟩
  | rdreg idx =>
    show ∃ t, execRdreg idx s = .next t ∧ _
    unfold execRdreg
    cases registerValue s idx with
    | none => exact ⟨_, rfl, .faults _ s .fIll⟩
    | some v => exact ⟨_, rfl, .responds _ s v⟩

/-- If a command answers next `t`, `t` is one of the changes above. -/
theorem change_of_exec (i : Instr) (s t : State) (h : exec i s = .next t) : CommandChange i s t := by
  obtain ⟨u, hu, hc⟩ := exec_change i s
  rw [h] at hu
  cases hu
  exact hc

end Sys2Proof.Machine
end

