-- ==== Sys2Proof/Laws/Decode.lean ====
section
/-! SUPPORT. The fields of a command word and the word of its fields are inverse; the operands' fields likewise. -/

namespace Sys2Proof

theorem wordOf_toNat (f : CommandFields) : (wordOf f).toNat =
    f.op.toNat * 2 ^ 60 + f.sub.toNat * 2 ^ 56 + f.rsv.toNat * 2 ^ 48 + f.addr.toNat * 2 ^ 32 + f.x.toNat * 2 ^ 16
      + f.y.toNat := by
  have h1 := f.op.isLt
  have h2 := f.sub.isLt
  have h3 := f.rsv.isLt
  have h4 := f.addr.isLt
  have h5 := f.x.isLt
  have h6 := f.y.isLt
  simp only [wordOf, BitVec.toNat_append]
  rw [← Nat.shiftLeft_add_eq_or_of_lt (by omega), ← Nat.shiftLeft_add_eq_or_of_lt (by omega),
    ← Nat.shiftLeft_add_eq_or_of_lt (by omega), ← Nat.shiftLeft_add_eq_or_of_lt (by omega),
    ← Nat.shiftLeft_add_eq_or_of_lt (by omega)]
  simp only [Nat.shiftLeft_eq]
  omega

/-- The fields of the word of `f` are `f`. -/
@[simp] theorem fieldsOf_wordOf (f : CommandFields) : fieldsOf (wordOf f) = f := by
  have hw := wordOf_toNat f
  have h1 := f.op.isLt
  have h2 := f.sub.isLt
  have h3 := f.rsv.isLt
  have h4 := f.addr.isLt
  have h5 := f.x.isLt
  have h6 := f.y.isLt
  obtain ⟨op, sub, rsv, addr, x, y⟩ := f
  simp only at hw h1 h2 h3 h4 h5 h6
  simp only [fieldsOf, CommandFields.mk.injEq]
  refine ⟨?_, ?_, ?_, ?_, ?_, ?_⟩ <;> apply BitVec.eq_of_toNat_eq <;>
    simp only [BitVec.extractLsb'_toNat, Nat.shiftRight_eq_div_pow, hw] <;> omega

/-- The word of the fields of `w` is `w`. -/
@[simp] theorem wordOf_fieldsOf (w : CommandWord) : wordOf (fieldsOf w) = w := by
  have h := w.isLt
  apply BitVec.eq_of_toNat_eq
  rw [wordOf_toNat]
  simp only [fieldsOf, BitVec.extractLsb'_toNat, Nat.shiftRight_eq_div_pow]
  omega

/-- `sext_16` of the field of a coordinate that fits. -/
theorem sext16_coordField (v : Int) (h : coordFits v = true) : sext16 (coordField v) = v := by
  simp only [coordFits, decide_eq_true_eq] at h
  simp only [sext16, coordField, BitVec.toInt_ofInt]
  rw [Int.bmod_eq_of_le] <;> omega

theorem coordField_sext16 (v : Half) : coordField (sext16 v) = v := BitVec.ofInt_toInt

theorem coordFits_sext16 (v : Half) : coordFits (sext16 v) = true := by
  have h1 := BitVec.le_toInt v
  have h2 := BitVec.toInt_lt (x := v)
  exact decide_eq_true (by unfold sext16; omega)

/-- `zext_16` of the field of an address that fits. -/
theorem zext16_addrField (a : Nat) (h : addrFits a = true) : zext16 (addrField a) = a := by
  simp only [addrFits, decide_eq_true_eq] at h
  simp only [zext16, addrField, BitVec.toNat_ofNat]
  omega

theorem addrField_zext16 (v : Half) : addrField (zext16 v) = v := by
  simp [addrField, zext16]

theorem addrFits_zext16 (v : Half) : addrFits (zext16 v) = true := by
  have := v.isLt
  exact decide_eq_true (by unfold zext16; omega)

theorem rotationOfCode_rotationCode (r : Rotation) : rotationOfCode (rotationCode r) = r := by cases r <;> rfl

theorem rotationCode_rotationOfCode (c : BitVec 2) : rotationCode (rotationOfCode c) = c := by
  revert c; decide

end Sys2Proof
end

