-- ==== Sys2Proof/Laws/Flush.lean ====
section
/-! SUPPORT. Once everything a step of the flush state machine can do. -/

namespace Sys2Proof.Machine

/-- Everything a step of the flush state machine can do; `ok` is XPORT's answer. -/
inductive FlushChange : Bool → State → State → Prop where
  | selects (s : State) (hp : s.working.phase = .select) :
      FlushChange true s
        { emitEvent (.transaction (pageSelect s.build s.working.fp.toNat (s.working.cs.toNat + s.build.colOffset))
            true) s with
          working := afterSelect s.build s.working }
  | sends (s : State) (hp : s.working.phase = .data)
      (hr : s.working.ptr.toNat + chunkSize s.working ≤ fbSize s.build) :
      FlushChange true s
        { emitEvent (.transaction (dataChunk s.build (bytesAt s.fb s.working.ptr.toNat (chunkSize s.working)))
            true) s with
          working := afterChunk (chunkSize s.working) s.working }
  | aborts (s : State) (x : Transaction) (hp : s.working.phase ≠ .done) (hx : currentTransaction s = some x) :
      FlushChange false s (abortFlush (emitEvent (.transaction x false) s))
  | completes (ok : Bool) (s : State) (hp : s.working.phase = .done) : FlushChange ok s (completeFlush s)

theorem currentTransaction_select (s : State) (hp : s.working.phase = .select) : currentTransaction s =
    some (pageSelect s.build s.working.fp.toNat (s.working.cs.toNat + s.build.colOffset)) := by
  simp [currentTransaction, hp]

theorem currentTransaction_data (s : State) (hp : s.working.phase = .data)
    (hr : s.working.ptr.toNat + chunkSize s.working ≤ fbSize s.build) : currentTransaction s =
    some (dataChunk s.build (bytesAt s.fb s.working.ptr.toNat (chunkSize s.working))) := by
  simp [currentTransaction, hp, memReadRange_of_le s _ _ hr]

theorem flushStep_done (ok : Bool) (s : State) (hp : s.working.phase = .done) :
    flushStep ok s = .next (completeFlush s) := by simp [flushStep, hp]

/-- The SELECT step answered ok. -/
theorem flushStep_select (s : State) (hp : s.working.phase = .select) : flushStep true s = .next
    { emitEvent (.transaction (pageSelect s.build s.working.fp.toNat (s.working.cs.toNat + s.build.colOffset)) true) s with
      working := afterSelect s.build s.working } := by
  simp [flushStep, hp, currentTransaction_select s hp]

/-- The DATA step answered ok, its chunk in the framebuffer. -/
theorem flushStep_data (s : State) (hp : s.working.phase = .data)
    (hr : s.working.ptr.toNat + chunkSize s.working ≤ fbSize s.build) : flushStep true s = .next
    { emitEvent (.transaction (dataChunk s.build (bytesAt s.fb s.working.ptr.toNat (chunkSize s.working))) true) s with
      working := afterChunk (chunkSize s.working) s.working } := by
  simp [flushStep, hp, currentTransaction_data s hp hr]

/-- A transaction answered fail aborts the FLUSH. -/
theorem flushStep_fail (s : State) (x : Transaction) (hp : s.working.phase ≠ .done)
    (hx : currentTransaction s = some x) :
    flushStep false s = .next (abortFlush (emitEvent (.transaction x false) s)) := by
  cases h : s.working.phase with
  | done => exact absurd h hp
  | select => simp [flushStep, h, hx]
  | data => simp [flushStep, h, hx]

/-- If a step of the flush state machine answers next `t`, `t` is one of the changes above. -/
theorem change_of_flushStep (ok : Bool) (s t : State) (h : flushStep ok s = .next t) : FlushChange ok s t := by
  cases hp : s.working.phase with
  | done =>
    rw [flushStep_done ok s hp] at h
    cases h
    exact .completes ok s hp
  | select =>
    cases ok with
    | true =>
      rw [flushStep_select s hp] at h
      cases h
      exact .selects s hp
    | false =>
      rw [flushStep_fail s _ (by simp [hp]) (currentTransaction_select s hp)] at h
      cases h
      exact .aborts s _ (by simp [hp]) (currentTransaction_select s hp)
  | data =>
    by_cases hr : s.working.ptr.toNat + chunkSize s.working ≤ fbSize s.build
    · cases ok with
      | true =>
        rw [flushStep_data s hp hr] at h
        cases h
        exact .sends s hp hr
      | false =>
        rw [flushStep_fail s _ (by simp [hp]) (currentTransaction_data s hp hr)] at h
        cases h
        exact .aborts s _ (by simp [hp]) (currentTransaction_data s hp hr)
    · simp [flushStep, hp, currentTransaction, memReadRange, hr] at h

end Sys2Proof.Machine
end

