-- ==== Sys2Proof/Laws/PerInstr.lean ====
section
/-! SUPPORT. Statements made per instruction. `OpcodeOfRow`: the OP field of an instruction's word is the OP of its row in
the opcode map (30_encoding.md R104), and its RSV field is 0 (R101). -/

namespace Sys2Proof.Laws

/-- The OP field of an instruction's word, and RSV = 0. -/
def OpcodeOfRow.Statement (i : Instr) : Prop :=
  (fieldsOf (encode i)).op = (fieldsOf i.row.matchBits).op ∧ (fieldsOf (encode i)).rsv = 0

theorem opcodeOfRow_of_fields (i : Instr) (hop : (encodeFields i).op = (fieldsOf i.row.matchBits).op)
    (hrsv : (encodeFields i).rsv = 0) : OpcodeOfRow.Statement i := by
  constructor
  · rw [encode, fieldsOf_wordOf, hop]
  · rw [encode, fieldsOf_wordOf, hrsv]

theorem OpcodeOfRow.nop : OpcodeOfRow.Statement .nop :=
  opcodeOfRow_of_fields _ (by simp only [encodeFields, Instr.row, OpcodeRow.matchBits]; decide) rfl

theorem OpcodeOfRow.init (rst : Bool) : OpcodeOfRow.Statement (.init rst) :=
  opcodeOfRow_of_fields _ (by simp only [encodeFields, Instr.row, OpcodeRow.matchBits]; decide) rfl

theorem OpcodeOfRow.rot (r : Rotation) : OpcodeOfRow.Statement (.rot r) :=
  opcodeOfRow_of_fields _ (by simp only [encodeFields, Instr.row, OpcodeRow.matchBits]; decide) rfl

theorem OpcodeOfRow.setpixClear (x y : Int) : OpcodeOfRow.Statement (.setpixClear x y) :=
  opcodeOfRow_of_fields _ (by simp only [encodeFields, Instr.row, OpcodeRow.matchBits]; decide) rfl

theorem OpcodeOfRow.setpixSet (x y : Int) : OpcodeOfRow.Statement (.setpixSet x y) :=
  opcodeOfRow_of_fields _ (by simp only [encodeFields, Instr.row, OpcodeRow.matchBits]; decide) rfl

theorem OpcodeOfRow.setpixInvert (x y : Int) : OpcodeOfRow.Statement (.setpixInvert x y) :=
  opcodeOfRow_of_fields _ (by simp only [encodeFields, Instr.row, OpcodeRow.matchBits]; decide) rfl

theorem OpcodeOfRow.getpix (x y : Int) : OpcodeOfRow.Statement (.getpix x y) :=
  opcodeOfRow_of_fields _ (by simp only [encodeFields, Instr.row, OpcodeRow.matchBits]; decide) rfl

theorem OpcodeOfRow.clear : OpcodeOfRow.Statement .clear :=
  opcodeOfRow_of_fields _ (by simp only [encodeFields, Instr.row, OpcodeRow.matchBits]; decide) rfl

theorem OpcodeOfRow.mark (x y : Int) : OpcodeOfRow.Statement (.mark x y) :=
  opcodeOfRow_of_fields _ (by simp only [encodeFields, Instr.row, OpcodeRow.matchBits]; decide) rfl

theorem OpcodeOfRow.flush : OpcodeOfRow.Statement .flush :=
  opcodeOfRow_of_fields _ (by simp only [encodeFields, Instr.row, OpcodeRow.matchBits]; decide) rfl

theorem OpcodeOfRow.fbrd (addr : Nat) : OpcodeOfRow.Statement (.fbrd addr) :=
  opcodeOfRow_of_fields _ (by simp only [encodeFields, Instr.row, OpcodeRow.matchBits]; decide) rfl

theorem OpcodeOfRow.fbwr (addr : Nat) (byte : Byte) : OpcodeOfRow.Statement (.fbwr addr byte) :=
  opcodeOfRow_of_fields _ (by simp only [encodeFields, Instr.row, OpcodeRow.matchBits]; decide) rfl

theorem OpcodeOfRow.rdreg (idx : Nat) : OpcodeOfRow.Statement (.rdreg idx) :=
  opcodeOfRow_of_fields _ (by simp only [encodeFields, Instr.row, OpcodeRow.matchBits]; decide) rfl

end Sys2Proof.Laws
end

