-- ==== Sys2Proof/Laws/Step.lean ====
section
/-! SUPPORT. Once everything a step can do. -/

namespace Sys2Proof.Machine

/-- `s` with its oldest input taken. -/
def popInput (s : State) : State := { s with inputs := s.inputs.tail }

/-- Everything a step can do. -/
inductive StepChange : State → State → Prop where
  | illegal (s : State) (w : CommandWord) (rest : List Input) (e : Illegal) (hi : s.inputs = .command w :: rest)
      (hd : decode w = .error e) : StepChange s (raiseFault .fIll (popInput s))
  | command (s t : State) (w : CommandWord) (rest : List Input) (i : Instr) (hi : s.inputs = .command w :: rest)
      (hd : decode w = .ok i) (hc : CommandChange i (popInput s) t) : StepChange s t
  /-- nothing but the taken input: SEQ waits -/
  | waits (s : State) : StepChange s (popInput s)
  | flush (s t : State) (ok : Bool) (hb : s.busy = true) (hc : FlushChange ok (popInput s) t) : StepChange s t
  | transport (s : State) (x : Xport) : StepChange s { popInput s with xport := x }
  | environment (s : State) (a b : Bool) : StepChange s { popInput s with allocOk := a, busOk := b }
  | reset (s : State) (rest : List Input) (hi : s.inputs = .reset :: rest) : StepChange s (resetBlock (popInput s))

theorem popInput_of_nil (s : State) (h : s.inputs = []) : popInput s = s := by
  cases s; simp only at h; subst h; rfl

theorem popInput_of_cons (s : State) (i : Input) (rest : List Input) (h : s.inputs = i :: rest) :
    popInput s = { s with inputs := rest } := by simp [popInput, h]

/-- The step takes the oldest input. -/
theorem step_of_cons (s : State) (i : Input) (rest : List Input) (h : s.inputs = i :: rest) :
    step s = takeInput i (popInput s) := by rw [popInput_of_cons s i rest h]; simp [step, h]

theorem step_of_nil (s : State) (h : s.inputs = []) : step s = seqAlone s := by simp [step, h]

theorem seqAlone_done (s : State) (hb : s.busy = true) (hp : s.working.phase = .done) :
    seqAlone s = .next (completeFlush s) := by simp [seqAlone, hb, hp, flushStep_done]

theorem seqAlone_waits (s : State) (h : s.busy = true → s.working.phase ≠ .done) : seqAlone s = .next s := by
  unfold seqAlone
  rw [if_neg]
  simpa using h

theorem takeAnswer_awaited (ok : Bool) (s : State) (hb : s.busy = true) (hp : s.working.phase ≠ .done) :
    takeAnswer ok s = flushStep ok s := by simp [takeAnswer, awaitsAnswer, hb, hp]

theorem takeAnswer_unawaited (ok : Bool) (s : State) (h : s.busy = true → s.working.phase = .done) :
    takeAnswer ok s = seqAlone s := by
  unfold takeAnswer
  rw [if_neg]
  simpa [awaitsAnswer] using h

theorem change_of_seqAlone (s t : State) (h : seqAlone (popInput s) = .next t) : StepChange s t := by
  by_cases hd : s.busy = true ∧ s.working.phase = .done
  · rw [seqAlone_done (popInput s) hd.1 hd.2] at h
    cases h
    exact .flush s _ true hd.1 (.completes true _ hd.2)
  · rw [seqAlone_waits (popInput s) fun hb hp => hd ⟨hb, hp⟩] at h
    cases h
    exact .waits s

/-- If a step answers next `t`, `t` is one of the changes above. -/
theorem change_of_step (s t : State) (h : step s = .next t) : StepChange s t := by
  cases hin : s.inputs with
  | nil =>
    rw [step_of_nil s hin, ← popInput_of_nil s hin] at h
    exact change_of_seqAlone s t h
  | cons i rest =>
    rw [step_of_cons s i rest hin] at h
    cases i with
    | command w =>
      simp only [takeInput, acceptWord] at h
      cases hd : decode w with
      | error e =>
        rw [hd] at h
        cases h
        exact .illegal s w rest e hin hd
      | ok i =>
        rw [hd] at h
        exact .command s t w rest i hin hd (change_of_exec i _ t h)
    | answer ok =>
      simp only [takeInput] at h
      by_cases ha : s.busy = true ∧ s.working.phase ≠ .done
      · rw [takeAnswer_awaited ok (popInput s) ha.1 ha.2] at h
        exact .flush s t ok ha.1 (change_of_flushStep ok _ t h)
      · rw [takeAnswer_unawaited ok (popInput s) fun hb => by
          by_contra hp; exact ha ⟨hb, hp⟩] at h
        exact change_of_seqAlone s t h
    | quiet => exact change_of_seqAlone s t h
    | transport r m =>
      cases h
      exact .transport s ⟨r, m⟩
    | environment a b =>
      cases h
      exact .environment s a b
    | reset =>
      cases h
      exact .reset s rest hin

end Sys2Proof.Machine
end

