-- ==== Sys2Proof/Laws/Working.lean ====
section
/-! SUPPORT. The flush working registers read as naturals: what the set-up, a page-select and a data chunk leave in
them. -/

namespace Sys2Proof.Machine

theorem toNat_ofInt_of_lt (n : Nat) (v : Int) (h0 : 0 ≤ v) (h : v < 2 ^ n) : (BitVec.ofInt n v).toNat = v.toNat := by
  rw [BitVec.toNat_ofInt, Int.emod_eq_of_lt h0]
  exact_mod_cast h

/-- The clamp of 43_flush.md R213 changes nothing within the buffer. -/
theorem clampColumn_of_inRange (b : Build) (d : Half) (h : 0 ≤ d.toInt ∧ d.toInt ≤ b.w - 1) :
    clampColumn b d = d.toInt := by unfold clampColumn clamp; omega

/-- PAGES is at most 16 (00_scope.md R9). -/
theorem pages_le (b : Build) : pages b ≤ 16 := by
  have := b.h_range
  unfold pages
  omega

/-- Bytes within the columns of one page are in the framebuffer. -/
theorem page_bytes_le (b : Build) (p c n : Nat) (hp : p < pages b) (hc : c + n ≤ b.w) :
    p * b.w + c + n ≤ fbSize b := by
  have : (p + 1) * b.w ≤ pages b * b.w := Nat.mul_le_mul_right _ hp
  rw [Nat.succ_mul] at this
  unfold fbSize
  omega

/-- CMAX of a FLUSH that passed the transport check (43_flush.md R212). -/
theorem flushSetup_cmax (s : State) (h : 4 ≤ s.xport.maxbuf.toNat) :
    (flushSetup s).cmax.toNat = s.xport.maxbuf.toNat - 1 := by
  show (s.xport.maxbuf - 1).toNat = _
  bv_omega

/-- A page-select of a page with bytes to send starts its data phase (43_flush.md R217, R225). -/
theorem afterSelect_eq (b : Build) (w : Working) (h : w.cs.toNat ≤ w.ce.toNat) : afterSelect b w = { w with
    ptr := BitVec.ofNat 13 (w.fp.toNat * b.w + w.cs.toNat)
    rem := BitVec.ofNat 9 (w.ce.toNat + 1 - w.cs.toNat)
    phase := .data } := by
  have hce := w.ce.isLt
  have hne : ¬ BitVec.ofNat 9 (w.ce.toNat + 1 - w.cs.toNat) = 0 := fun hz => by
    have hn : (BitVec.ofNat 9 (w.ce.toNat + 1 - w.cs.toNat)).toNat = 0 := by rw [hz]; rfl
    rw [BitVec.toNat_ofNat] at hn
    omega
  simp only [afterSelect, if_neg hne]

theorem sub_chunk_toNat (w : Working) (n : Nat) (h : n ≤ w.rem.toNat) :
    (w.rem - BitVec.ofNat 9 n).toNat = w.rem.toNat - n := by
  have := w.rem.isLt
  rw [BitVec.toNat_sub, BitVec.toNat_ofNat]
  omega

theorem sub_chunk_eq_zero (w : Working) (n : Nat) (h : n ≤ w.rem.toNat) :
    w.rem - BitVec.ofNat 9 n = 0 ↔ n = w.rem.toNat := by
  rw [← BitVec.toNat_inj, sub_chunk_toNat w n h, show (0 : BitVec 9).toNat = 0 from rfl]
  omega

/-- A data chunk that is not the last of its page moves PTR and REM (43_flush.md R218). -/
theorem afterChunk_more (w : Working) (n : Nat) (h : n < w.rem.toNat) : afterChunk n w = { w with
    ptr := w.ptr + BitVec.ofNat 13 n
    rem := w.rem - BitVec.ofNat 9 n } := by
  have hz := mt (sub_chunk_eq_zero w n (Nat.le_of_lt h)).1 (Nat.ne_of_lt h)
  simp only [afterChunk, if_neg hz]

/-- The last data chunk of a page goes on to the next page (43_flush.md R225). -/
theorem afterChunk_last (w : Working) (n : Nat) (h : n = w.rem.toNat) : afterChunk n w = { w with
    ptr := w.ptr + BitVec.ofNat 13 n
    rem := w.rem - BitVec.ofNat 9 n
    fp := w.fp + 1
    phase := nextPhase (w.fp + 1) w.lp } := by
  have hz := (sub_chunk_eq_zero w n (Nat.le_of_eq h)).2 h
  simp only [afterChunk, if_pos hz, nextPage]

end Sys2Proof.Machine
end

