-- ==== Sys2Proof/Tests/Slice0.lean ====
section
/-! SUPPORT. The model's own tests: ill-formed operands, the words of every row, one step of every command with the
values of 95_test_vectors.md, and a witness for the hypotheses of every statement. -/

namespace Sys2Proof.Tests

open Sys2Proof Sys2Proof.Machine

/-! ## Well-formedness: each check refuses an ill-formed term -/

theorem test_illFormed_x : ¬ WellFormed (.setpixSet 32768 0) := by decide
theorem test_illFormed_y : ¬ WellFormed (.mark 0 (-32769)) := by decide
theorem test_illFormed_setpixClear : ¬ WellFormed (.setpixClear 0 32768) := by decide
theorem test_illFormed_setpixInvert : ¬ WellFormed (.setpixInvert (-32769) 0) := by decide
theorem test_illFormed_getpix : ¬ WellFormed (.getpix 65535 0) := by decide
theorem test_illFormed_fbrd : ¬ WellFormed (.fbrd 65536) := by decide
theorem test_illFormed_fbwr : ¬ WellFormed (.fbwr 65536 0) := by decide
theorem test_illFormed_rdreg : ¬ WellFormed (.rdreg 65536) := by decide

/-! ## Decoding: words written out from 30_encoding.md R103 to R106 -/

theorem test_decode_nop : decode 0x0000000000000000 = .ok .nop := by rfl
theorem test_decode_init : decode 0x1000000000000000 = .ok (.init false) := by rfl
theorem test_decode_init_reset : decode 0x1100000000000000 = .ok (.init true) := by rfl
theorem test_decode_rot0 : decode 0x2000000000000000 = .ok (.rot .deg0) := by rfl
theorem test_decode_rot1 : decode 0x2100000000000000 = .ok (.rot .deg90) := by rfl
theorem test_decode_rot2 : decode 0x2200000000000000 = .ok (.rot .deg180) := by rfl
theorem test_decode_rot3 : decode 0x2300000000000000 = .ok (.rot .deg270) := by rfl
theorem test_decode_setpixClear : decode 0x3000000000040004 = .ok (.setpixClear 4 4) := by rfl
theorem test_decode_setpixSet : decode 0x3100000080007FFF = .ok (.setpixSet (-32768) 32767) := by rfl
theorem test_decode_setpixInvert : decode 0x32000000FFFF0005 = .ok (.setpixInvert (-1) 5) := by rfl
theorem test_decode_getpix : decode 0x40000000000A0014 = .ok (.getpix 10 20) := by rfl
theorem test_decode_clear : decode 0x5000000000000000 = .ok .clear := by rfl
theorem test_decode_mark : decode 0x6000000000280002 = .ok (.mark 40 2) := by rfl
theorem test_decode_flush : decode 0x7000000000000000 = .ok .flush := by rfl
theorem test_decode_fbrd : decode 0x8000010A00000000 = .ok (.fbrd 266) := by rfl
theorem test_decode_fbwr : decode 0x900003FF000000FF = .ok (.fbwr 1023 0xFF) := by rfl
theorem test_decode_rdreg : decode 0xA000000C00000000 = .ok (.rdreg 12) := by rfl

/-- The illegal words of 95_test_vectors.md section 2.6. -/
theorem test_decode_rejects :
    [0x0001000000000000, 0x0000000000000001, 0x1200000000000000, 0x2400000000000000, 0x3100000100010001,
      0x4100000000000000, 0x900003FF000001FF].map (fun w => decode w) =
      List.replicate 7 (.error .unusedBitSet) ∧
    decode 0x3300000000010001 = .error .reservedPixelMode ∧
    [0xB000000000000000, 0xC000000000000000, 0xD000000000000000, 0xE000000000000000, 0xF000000000000000].map
      (fun w => decode w) = List.replicate 5 (.error .reservedOpcode) := ⟨rfl, rfl, rfl⟩

theorem test_encode : encode (.setpixSet 10 20) = 0x31000000000A0014 ∧ encode (.fbwr 1023 0xFF) = 0x900003FF000000FF ∧
    encode (.rot .deg270) = 0x2300000000000000 := ⟨rfl, rfl, rfl⟩

theorem test_decodeTableWord : decodeTableWord 64 0x6000000000030009 = some (.mark 3 9) ∧
    decodeTableWord 64 0x3300000000000000 = none := ⟨rfl, rfl⟩

/-! ## Assembly: the examples of 30_encoding.md R119 and the ends of the operand ranges (R117) -/

theorem test_assemble_setpix : assembleLine "SETPIX -1, 5, INVERT".toList = .ok (.setpixInvert (-1) 5) := by rfl
theorem test_assemble_fbwr : assembleLine "FBWR 266, 0x10".toList = .ok (.fbwr 266 0x10) := by rfl
theorem test_assemble_rdreg : assembleLine "RDREG DX1".toList = .ok (.rdreg 2) := by rfl
theorem test_assemble_coordinate_range :
    assembleLine "MARK -32768, 32767".toList = .ok (.mark (-32768) 32767) ∧
    assembleLine "MARK 32768, 0".toList = .error .operandOutOfRange ∧
    assembleLine "GETPIX 0, -32769".toList = .error .operandOutOfRange := ⟨rfl, rfl, rfl⟩
theorem test_assemble_byte_range : assembleLine "FBWR 0, 255".toList = .ok (.fbwr 0 0xFF) ∧
    assembleLine "FBWR 0, 256".toList = .error .operandOutOfRange := ⟨rfl, rfl⟩
theorem test_assemble_address_range : assembleLine "FBRD 65535".toList = .ok (.fbrd 65535) ∧
    assembleLine "FBRD 65536".toList = .error .operandOutOfRange ∧
    assembleLine "RDREG 0x10000".toList = .error .operandOutOfRange := ⟨rfl, rfl, rfl⟩
theorem test_assemble_rotation_range : assembleLine "ROT 3".toList = .ok (.rot .deg270) ∧
    assembleLine "ROT 4".toList = .error .operandOutOfRange := ⟨rfl, rfl⟩

/-! ## States for the tests -/

/-- After INIT, on the default build. -/
def readyState : State := { State.reset with life := .ready }

/-- After SETPIX 10, 20, SET. -/
def drawnState : State := { readyState with fb := [(266, 0x10)], dirty := ⟨10, 20, 10, 20⟩ }

/-- The FLUSH of `drawnState` at its page-select, its data chunk and its completion. -/
def selectState : State := { drawnState with busy := true, working := ⟨.select, 2, 3, 10, 10, 0, 0, 31⟩ }
def dataState : State := { drawnState with busy := true, working := ⟨.data, 2, 3, 10, 10, 266, 1, 31⟩ }
def doneState : State := { drawnState with busy := true, working := ⟨.done, 3, 3, 10, 10, 267, 0, 31⟩ }

/-- `s` with the given inputs next. -/
def given (inputs : List Input) (s : State) : State := { s with inputs := inputs }

/-- The state after one step that answers next. -/
def after (s : State) : Option State :=
  match step s with
  | .next t => some t
  | .fault _ => none
  | .refused _ => none

/-- The state after the command word `w`. -/
def afterWord (w : CommandWord) (s : State) : Option State := after (given [.command w] s)

/-! ## One step of each command (95_test_vectors.md sections 1 and 2) -/

theorem test_nop : afterWord 0x0000000000000000 State.reset =
    some { State.reset with events := [.response 0x00000000] } := by decide
theorem test_init_reset : afterWord 0x1100000000000000 State.reset =
    some { State.reset with life := .ready, events := [.extRstReq, .response 0x00000000] } := by decide
theorem test_init_busFails : (afterWord 0x1000000000000000 { State.reset with busOk := false }).map
    (fun t => (statusWord t, t.events)) = some (0x0042, [.response 0x08000000]) := by decide
theorem test_rot : (afterWord 0x2100000000000000 drawnState).map (fun t => (t.rot, t.fb, t.dirty)) =
    some (.deg90, [(266, 0x10)], ⟨10, 20, 10, 20⟩) := by decide
theorem test_setpixSet : (afterWord 0x31000000000A0014 readyState).map (fun t => (t.fb, t.dirty, t.events)) =
    some ([(266, 0x10)], ⟨10, 20, 10, 20⟩, [.response 0x00000000]) := by decide
theorem test_setpixSet_rotated : (afterWord 0x3100000000030005 { readyState with rot := .deg270 }).map
    (fun t => (t.fb, t.dirty)) = some ([(901, 0x10)], ⟨5, 60, 5, 60⟩) := by decide
theorem test_setpixClear : (afterWord 0x3000000000000000
    { readyState with fb := [(0, 0x81)], dirty := ⟨0, 0, 0, 0⟩ }).map (fun t => (t.fb, t.dirty)) =
    some ([(0, 0x80)], ⟨0, 0, 0, 0⟩) := by decide
theorem test_setpixClear_unchanged : (afterWord 0x3000000000040004 readyState).map (fun t => (t.fb, t.dirty)) =
    some ([], ⟨4, 4, 4, 4⟩) := by decide
theorem test_setpixInvert : (afterWord 0x3200000000070007 { readyState with fb := [(7, 0x80)] }).map
    (fun t => (t.fb, t.dirty)) = some ([], ⟨7, 7, 7, 7⟩) := by decide
theorem test_setpixInvert_clipped : afterWord 0x32000000FFFF0000 readyState =
    some { readyState with events := [.response 0x00000000] } := by decide
theorem test_getpix : (afterWord 0x4000000000140075 { drawnState with rot := .deg90 }).map (fun t => t.events) =
    some [.response 0x00000001] := by decide
theorem test_getpix_outOfRange : afterWord 0x40000000FFFF0000 readyState =
    some { readyState with events := [.response 0x00000000] } := by decide
theorem test_clear : (afterWord 0x5000000000000000 drawnState).map (fun t => (t.fb, t.dirty, t.events)) =
    some ([], ⟨0, 0, 127, 63⟩, [.response 0x00000000]) := by decide
theorem test_mark : (afterWord 0x6000000000280002 { readyState with dirty := ⟨3, 9, 3, 9⟩ }).map (fun t => t.dirty) =
    some ⟨3, 2, 40, 9⟩ := by decide
theorem test_mark_outside : (afterWord 0x6000000000800000 readyState).map (fun t => t.dirty) =
    some Dirty.sentinel := by decide
theorem test_flush_starts : afterWord 0x7000000000000000 drawnState = some selectState := by decide
theorem test_flush_noTransport : (afterWord 0x7000000000000000 { drawnState with xport := ⟨true, 3⟩ }).map
    (fun t => (statusWord t, t.dirty, t.events)) = some (0x1009, ⟨10, 20, 10, 20⟩, [.response 0x05000000]) := by decide
theorem test_fbrd : (afterWord 0x8000010A00000000 drawnState).map (fun t => t.events) =
    some [.response 0x00000010] := by decide
theorem test_fbrd_beyond : (afterWord 0x8000040000000000 readyState).map (fun t => (statusWord t, t.events)) =
    some (0x0801, [.response 0x04000000]) := by decide
theorem test_fbwr : (afterWord 0x900003FF000000FF drawnState).map (fun t => (t.fb, t.dirty)) =
    some ([(266, 0x10), (1023, 0xFF)], ⟨10, 20, 10, 20⟩) := by decide
theorem test_fbwr_beyond : (afterWord 0x9000FFFF00000000 readyState).map (fun t => (t.fb, t.events)) =
    some ([], [.response 0x04000000]) := by decide
theorem test_rdreg_busy : (afterWord 0xA000000000000000 selectState).map (fun t => t.events) =
    some [.response 0x0000000D] := by decide
theorem test_rdreg_reserved : (afterWord 0xA000000C00000000 readyState).map (fun t => (statusWord t, t.events)) =
    some (0x0101, [.response 0x01000000]) := by decide

/-! ## The check order, the steps of a FLUSH, reset (95_test_vectors.md sections 2.4, 2.6 and 2.7) -/

theorem test_check_order :
    (afterWord 0xB000000000000000 State.reset).map (fun t => t.events) = some [.response 0x01000000] ∧
    (afterWord 0x8000040000000000 State.reset).map (fun t => t.events) = some [.response 0x02000000] ∧
    (afterWord 0x1000000000000000 selectState).map (fun t => t.events) = some [.response 0x03000000] := by decide

theorem test_page_select : (after (given [.answer true] selectState)).map (fun t => (t.events, t.working)) =
    some ([.transaction ⟨.cmd, 0x00, [0xB2, 0x10, 0x0A]⟩ true], dataState.working) := by decide
theorem test_page_select_offset :
    (pageSelect Config.defaultBuild 0 129).payload = [0xB0, 0x18, 0x01] ∧
    (pageSelect Config.defaultBuild 7 90).payload = [0xB7, 0x15, 0x0A] := by decide
theorem test_data_chunk : (after (given [.answer true] dataState)).map (fun t => (t.events, t.working)) =
    some ([.transaction ⟨.data, 0x40, [0x10]⟩ true], doneState.working) := by decide
theorem test_done : (after doneState).map (fun t => (t.events, t.dirty, statusWord t)) =
    some ([.response 0x00000000], Dirty.sentinel, 0x0001) := by decide
theorem test_abort : (after (given [.answer false] dataState)).map (fun t => (t.events, t.dirty, statusWord t)) =
    some ([.transaction ⟨.data, 0x40, [0x10]⟩ false, .response 0x09000000], ⟨10, 20, 10, 20⟩, 0x0019) := by decide
theorem test_waits_for_transport : after selectState = some selectState := by decide
theorem test_reset_input : (after (given [.reset] { dataState with sticky := ⟨true, true, true, true, true, true⟩ })).map
    (fun t => (statusWord t, t.rot, t.dirty, t.events)) =
    some (0x0000, .deg0, Dirty.sentinel, [.abandoned ⟨.data, 0x40, [0x10]⟩]) := by decide
theorem test_withFetchWord : after (State.reset.withFetchWord 64 0x2100000000000000) =
    some { State.reset with rot := .deg90, events := [.response 0x00000000] } := by decide

/-- The corners and the point (10, 20) on 128 by 64 (95_test_vectors.md T1). -/
theorem test_transform :
    [(Rotation.deg0, 10, 20), (.deg90, 10, 20), (.deg180, 10, 20), (.deg270, 10, 20), (.deg90, 0, 127), (.deg270, 63, 0)].map
      (fun p => transform Config.defaultBuild p.1 p.2.1 p.2.2) =
    [(10, 20), (107, 10), (117, 43), (20, 53), (0, 0), (0, 0)] := by decide

/-- The chunk lengths of 95_test_vectors.md F6 and F11. -/
theorem test_chunks :
    (dataChunks Config.defaultBuild [] 0 32 31).map (fun x => x.payload.length) = [31, 1] ∧
    (dataChunks Config.defaultBuild [] 0 8 3).map (fun x => x.payload.length) = [3, 3, 2] := by decide

/-! ## Witnesses: a state and operands that meet the hypotheses of each statement -/

theorem test_witness_DecodeInvertsEncode : WellFormed (.setpixSet (-32768) 32767) ∧ WellFormed (.fbwr 65535 0xFF) := by
  decide
theorem test_witness_EncodeInvertsDecode : decode 0x90000000000000FF = .ok (.fbwr 0 0xFF) := rfl
theorem test_witness_CommandStepRunsDecoded :
    (given [.command 0xA000FFFF00000000] selectState).inputs = .command 0xA000FFFF00000000 :: [] ∧
    decode 0xA000FFFF00000000 = .ok (.rdreg 65535) := ⟨rfl, rfl⟩
theorem test_witness_IllegalWordFaults_reservedOpcode :
    (given [.command 0xB000000000000000] State.reset).inputs = .command 0xB000000000000000 :: [] ∧
    0xB ≤ ((0xB000000000000000 : CommandWord).extractLsb' 60 4).toNat := by decide
theorem test_witness_IllegalWordFaults_unusedBit :
    (given [.command 0xA000000000000001] State.reset).inputs = .command 0xA000000000000001 :: [] ∧
    (0xA000000000000001 : CommandWord) &&& ~~~ usedBits ((0xA000000000000001 : CommandWord).extractLsb' 60 4).toNat ≠ 0
    := by decide
theorem test_witness_IllegalWordFaults_pixelMode :
    (given [.command 0x3300000000010001] State.reset).inputs = .command 0x3300000000010001 :: [] ∧
    ((0x3300000000010001 : CommandWord).extractLsb' 60 4).toNat = 3 ∧
    ((0x3300000000010001 : CommandWord).extractLsb' 56 2).toNat = 3 := by decide
theorem test_witness_AssembledOperandsFit_line : assembleLine "FBRD 65535".toList = .ok (.fbrd 65535) := rfl
theorem test_witness_AssembledOperandsFit_parts :
    ["1".toList, "2".toList] ≠ [] ∧ ∀ s ∈ ["MARK".toList, "1".toList, "2".toList], s ≠ [] ∧ ' ' ∉ s ∧ ',' ∉ s := by decide
theorem test_witness_AssembledOperandsFit_numerals :
    (∀ d ∈ [0, 9], d < 10) ∧ (∀ d ∈ [0, 15], d < 16) ∧ ([0, 9] : List Nat) ≠ [] := by decide
theorem test_witness_AssembledOperandsFit_coordinates :
    parseInt "-32768".toList = some (-32768) ∧ parseInt "32767".toList = some 32767 ∧
    parseInt "-32769".toList = some (-32769) ∧ parseInt "32768".toList = some 32768 := ⟨rfl, rfl, rfl, rfl⟩
theorem test_witness_AssembledOperandsFit_naturals :
    (parseNat "3".toList = some 3 ∧ (rotationCode .deg270).toNat = 3 ∧ parseNat "4".toList = some 4) ∧
    (parseNat "255".toList = some 255 ∧ parseNat "0x100".toList = some 256) ∧
    (parseNat "65535".toList = some 65535 ∧ parseNat "0x10000".toList = some 65536) :=
  ⟨⟨rfl, rfl, rfl⟩, ⟨rfl, rfl⟩, rfl, rfl⟩
theorem test_witness_ResetInputResets : (given [.reset] dataState).inputs = .reset :: [] := rfl
theorem test_witness_InvariantKeptByStep :
    (Inv State.reset ∧ Inv drawnState ∧ Inv selectState ∧ Inv dataState ∧ Inv doneState) ∧
    ∃ t, step (given [.answer true] dataState) = .next t :=
  ⟨⟨by decide, by decide, by decide, by decide, by decide⟩, _, rfl⟩
theorem test_witness_InvariantStatesNeverStop :
    Inv (given [.answer false] selectState) ∧ Inv (given [.command 0x7000000000000000] drawnState) :=
  ⟨by decide, by decide⟩
theorem test_witness_DirtyInvariantKept :
    DirtyOk drawnState.build drawnState.dirty ∧
    ∃ t, step (given [.command 0x31000000007F003F] drawnState) = .next t := ⟨by decide, _, rfl⟩
theorem test_witness_BuildNeverChanges : ∃ t, step (given [.reset] drawnState) = .next t := ⟨_, rfl⟩
theorem test_witness_StickyBitsStayUntilReset :
    stickyBit .fReinit ⟨false, false, false, false, false, true⟩ = true ∧
    (∃ t, step (given [.command 0] { readyState with sticky := ⟨false, false, false, false, false, true⟩ }) = .next t) ∧
    ∃ t, step (given [.reset] { readyState with sticky := ⟨false, false, false, false, false, true⟩ }) = .next t :=
  ⟨rfl, ⟨_, rfl⟩, _, rfl⟩
theorem test_witness_LifecycleTransitions :
    (∃ t, step (given [.reset] readyState) = .next t ∧ t.life ≠ readyState.life) ∧
    (∃ t, step (given [.command 0x1000000000000000] State.reset) = .next t ∧ t.life ≠ State.reset.life) :=
  ⟨⟨_, rfl, by decide⟩, _, rfl, by decide⟩
theorem test_witness_OneResponsePerCommand :
    (∃ t, acceptWord 0x1100000000000000 State.reset = .next t) ∧ ∃ t, acceptWord 0x7000000000000000 drawnState = .next t :=
  ⟨⟨_, rfl⟩, _, rfl⟩
theorem test_witness_FaultsArePrecise :
    ((0x01000000 : ResponseWord).extractLsb' 24 8).toNat = 1 ∧ ((0x06000000 : ResponseWord).extractLsb' 24 8).toNat = 6 ∧
    (∃ t, acceptWord 0xB000000000000000 readyState = .next t ∧
      t.events = readyState.events ++ [.response 0x01000000]) ∧
    (∃ t, acceptWord 0x1000000000000000 readyState = .next t ∧
      t.events = readyState.events ++ [.response 0x06000000]) := ⟨rfl, rfl, ⟨_, rfl, rfl⟩, _, rfl, rfl⟩
theorem test_witness_FramebufferUnseenBeforeInit :
    MemoryOk State.reset.build State.reset.fb ∧ MemoryOk State.reset.build [(0, 1), (1023, 0xFF)] ∧
    State.reset.life ≠ .ready ∧ State.reset.busy = false ∧
    ∃ t, step (given [.command 0x1000000000000000] State.reset) = .next t :=
  ⟨by decide, by decide, by decide, rfl, _, rfl⟩
theorem test_witness_BusyRejectsAllButRdreg :
    selectState.busy = true ∧ ∀ idx, (Instr.init true) ≠ .rdreg idx := ⟨rfl, fun _ h => Instr.noConfusion h⟩
theorem test_witness_CommandsLeaveRunningFlush :
    selectState.busy = true ∧ ∃ t, acceptWord 0xA000000000000000 selectState = .next t := ⟨rfl, _, rfl⟩
theorem test_witness_NotReadyFaults :
    State.reset.busy = false ∧ State.reset.life ≠ .ready ∧ Instr.flush ≠ .nop ∧ (∀ rst, Instr.flush ≠ .init rst) ∧
    (∀ r, Instr.flush ≠ .rot r) ∧ ∀ idx, Instr.flush ≠ .rdreg idx :=
  ⟨rfl, by decide, by decide, fun _ h => Instr.noConfusion h, fun _ h => Instr.noConfusion h,
    fun _ h => Instr.noConfusion h⟩
theorem test_witness_SecondInitFaults : readyState.busy = false ∧ readyState.life ≠ .uninit := by decide
theorem test_witness_RawAddressBeyondFbFaults :
    readyState.busy = false ∧ readyState.life = .ready ∧ fbSize readyState.build ≤ 1024 := by decide
theorem test_witness_NopOnlyResponds : State.reset.busy = false := rfl
theorem test_witness_RotWritesOnlyRotation : State.reset.busy = false := rfl
theorem test_witness_InitSucceeds :
    State.reset.busy = false ∧ State.reset.life = .uninit ∧ State.reset.allocOk = true ∧ State.reset.busOk = true := by
  decide
theorem test_witness_InitFailureOutcomes_allocation :
    ({ State.reset with allocOk := false } : State).busy = false ∧
    ({ State.reset with allocOk := false } : State).life = .uninit ∧
    ({ State.reset with allocOk := false } : State).allocOk = false := by decide
theorem test_witness_InitFailureOutcomes_busInit :
    ({ State.reset with busOk := false } : State).busy = false ∧
    ({ State.reset with busOk := false } : State).life = .uninit ∧
    ({ State.reset with busOk := false } : State).allocOk = true ∧
    ({ State.reset with busOk := false } : State).busOk = false := by decide
theorem test_witness_RdregReadsTheMap : 12 ≤ 12 ∧ 12 ≤ 65535 := by decide
theorem test_witness_TransformIsBijective :
    InLogicalRange Config.defaultBuild .deg90 0 127 ∧ InPhysicalRange Config.defaultBuild 127 63 := by decide
theorem test_witness_SetpixWritesItsBit :
    drawnState.busy = false ∧ drawnState.life = .ready ∧ drawnState.fb.wf ∧
    InLogicalRange drawnState.build drawnState.rot 127 63 ∧ InLogicalRange drawnState.build drawnState.rot 0 0 := by decide
theorem test_witness_ClippedSetpixChangesNothing :
    drawnState.busy = false ∧ drawnState.life = .ready ∧
    ¬ InLogicalRange drawnState.build drawnState.rot 128 0 ∧ ¬ InLogicalRange drawnState.build drawnState.rot 0 (-1) := by
  decide
theorem test_witness_GetpixReadsItsBit :
    drawnState.busy = false ∧ drawnState.life = .ready ∧ InLogicalRange drawnState.build drawnState.rot 10 20 := by decide
theorem test_witness_OutOfRangeGetpixIsOff :
    drawnState.busy = false ∧ drawnState.life = .ready ∧ ¬ InLogicalRange drawnState.build drawnState.rot 0 64 := by decide
theorem test_witness_PixelRoundTrips :
    drawnState.busy = false ∧ drawnState.life = .ready ∧ drawnState.fb.wf ∧
    InLogicalRange drawnState.build drawnState.rot 10 20 := by decide
theorem test_witness_SetpixChangesNoOtherPixel :
    drawnState.busy = false ∧ drawnState.life = .ready ∧ drawnState.fb.wf ∧
    InLogicalRange drawnState.build drawnState.rot 10 20 ∧ InLogicalRange drawnState.build drawnState.rot 10 21 ∧
    ((10 : Int), (21 : Int)) ≠ (10, 20) := by decide
theorem test_witness_ClearBlanksAndMarksAll : drawnState.busy = false ∧ drawnState.life = .ready := by decide
theorem test_witness_FbrdReadsTheByte :
    drawnState.busy = false ∧ drawnState.life = .ready ∧ 1023 < fbSize drawnState.build := by decide
theorem test_witness_FbwrWritesTheByte :
    drawnState.busy = false ∧ drawnState.life = .ready ∧ drawnState.fb.wf ∧ 1023 < fbSize drawnState.build := by decide
theorem test_witness_MarkWidensInsideOnly :
    drawnState.busy = false ∧ drawnState.life = .ready ∧ InPhysicalRange drawnState.build 127 63 ∧
    ¬ InPhysicalRange drawnState.build 128 0 := by decide
theorem test_witness_PhysicalCommandsIgnoreRotation :
    Instr.fbrd 1024 ∈ [Instr.flush, .mark 0 0, .clear, .fbrd 1024, .fbwr 1024 0] ∧
    (∃ t, flushStep true selectState = .next t) ∧ (∃ t, flushStep false dataState = .next t) ∧
    ∃ t, flushStep true doneState = .next t := ⟨by decide, ⟨_, rfl⟩, ⟨_, rfl⟩, _, rfl⟩
theorem test_witness_NonWritersLeaveTheRectangle :
    Instr.fbwr 266 0 ∈ [Instr.fbwr 266 0, .getpix 0 0, .fbrd 266, .rot .deg90, .rdreg 0, .nop] ∧
    (∃ t, exec (.fbwr 266 0) drawnState = .next t) ∧
    selectState.working.phase ≠ .done ∧ ∃ t, flushStep false selectState = .next t :=
  ⟨by decide, ⟨_, rfl⟩, by decide, _, rfl⟩
theorem test_witness_RectangleGrowsUntilReset :
    DirtyOk drawnState.build drawnState.dirty ∧ DirtyOk doneState.build doneState.dirty ∧
    (∃ t, step (given [.command 0x5000000000000000] drawnState) = .next t) ∧
    (∃ t, step (given [.reset] drawnState) = .next t) ∧ ∃ t, step doneState = .next t :=
  ⟨by decide, by decide, ⟨_, rfl⟩, ⟨_, rfl⟩, _, rfl⟩
theorem test_witness_MarkCoversARawWrite :
    DirtyOk Config.defaultBuild Dirty.sentinel ∧ 1023 < fbSize Config.defaultBuild ∧
    WidenedBy (1023 % Config.defaultBuild.w : Nat) (8 * (1023 / Config.defaultBuild.w) : Nat)
      Dirty.sentinel ⟨127, 56, 127, 56⟩ := by decide
theorem test_witness_EmptyFlushOnlyResponds :
    readyState.busy = false ∧ readyState.life = .ready ∧ dirtyEmpty readyState.dirty = true ∧
    DirtyOk readyState.build readyState.dirty := by decide
theorem test_witness_FlushNeedsTheTransport :
    drawnState.busy = false ∧ drawnState.life = .ready ∧ dirtyEmpty drawnState.dirty = false ∧
    ({ drawnState with xport := ⟨false, 32⟩ } : State).xport.ready = false ∧
    ({ drawnState with xport := ⟨true, 3⟩ } : State).xport.maxbuf.toNat < 4 ∧
    4 ≤ ({ drawnState with xport := ⟨true, 4⟩ } : State).xport.maxbuf.toNat := by decide
theorem test_witness_FlushNeedsTheTransport_step :
    ∃ t, flushStep true selectState = .next t ∧ t.busy = true := ⟨_, rfl, rfl⟩
theorem test_witness_FlushSetsUpItsPages :
    drawnState.busy = false ∧ drawnState.life = .ready ∧ DirtyOk drawnState.build drawnState.dirty ∧
    dirtyEmpty drawnState.dirty = false ∧ drawnState.xport.ready = true ∧ 4 ≤ drawnState.xport.maxbuf.toNat ∧
    DirtyOk drawnState.build (dirtyFull drawnState.build) ∧ dirtyEmpty (dirtyFull drawnState.build) = false := by decide
theorem test_witness_SelectStepSendsPageSelect :
    Inv (given [.answer true] selectState) ∧ (given [.answer true] selectState).busy = true ∧
    (given [.answer true] selectState).working.phase = .select ∧
    (given [.answer true] selectState).inputs = .answer true :: [] := by decide
theorem test_witness_DataStepSendsChunk_last :
    Inv (given [.answer true] dataState) ∧ (given [.answer true] dataState).busy = true ∧
    (given [.answer true] dataState).working.phase = .data ∧
    (given [.answer true] dataState).inputs = .answer true :: [] ∧
    min dataState.working.rem.toNat dataState.working.cmax.toNat = dataState.working.rem.toNat := by decide

/-- A FLUSH of columns 0 to 3 of page 0 with CMAX = 3, at its first chunk. -/
def longState : State :=
  { readyState with dirty := ⟨0, 0, 3, 0⟩, busy := true, working := ⟨.data, 0, 1, 0, 3, 0, 4, 3⟩ }

theorem test_witness_DataStepSendsChunk_more :
    Inv (given [.answer true] longState) ∧ longState.busy = true ∧ longState.working.phase = .data ∧
    (given [.answer true] longState).inputs = .answer true :: [] ∧
    min longState.working.rem.toNat longState.working.cmax.toNat < longState.working.rem.toNat := by decide
theorem test_witness_FailedTransactionAborts :
    Inv (given [.answer false] selectState) ∧ selectState.busy = true ∧ selectState.working.phase ≠ .done ∧
    (given [.answer false] selectState).inputs = .answer false :: [] := by decide
theorem test_witness_DoneStepCompletes :
    doneState.busy = true ∧ doneState.working.phase = .done ∧ doneState.inputs = [] := by decide

/-- The transactions of the FLUSH of `drawnState`, CMAX = 31. -/
def drawnSeq : List Transaction := flushSeq drawnState.build drawnState.fb drawnState.dirty 31

theorem test_witness_FlushEmitsItsSequence :
    let s := given (.command 0x7000000000000000 :: drawnSeq.map (fun _ => .answer true)) drawnState
    s.busy = false ∧ s.life = .ready ∧ DirtyOk s.build s.dirty ∧ dirtyEmpty s.dirty = false ∧
    s.xport.ready = true ∧ 4 ≤ s.xport.maxbuf.toNat ∧
    s.inputs = .command 0x7000000000000000 ::
      (flushSeq s.build s.fb s.dirty (s.xport.maxbuf.toNat - 1)).map (fun _ => .answer true) := by decide
theorem test_witness_FailedFlushEmitsAPart :
    let s := given [.command 0x7000000000000000, .answer true, .answer false] drawnState
    s.busy = false ∧ s.life = .ready ∧ DirtyOk s.build s.dirty ∧ dirtyEmpty s.dirty = false ∧
    s.xport.ready = true ∧ 4 ≤ s.xport.maxbuf.toNat ∧
    (flushSeq s.build s.fb s.dirty (s.xport.maxbuf.toNat - 1))[1]? = some ⟨.data, 0x40, [0x10]⟩ ∧
    s.inputs = .command 0x7000000000000000 :: List.replicate 1 (.answer true) ++ .answer false :: [] := by decide
theorem test_witness_FlushTerminates :
    let s := given [.answer true, .answer false] drawnState
    s.busy = false ∧ s.life = .ready ∧ DirtyOk s.build s.dirty ∧
    exec .flush s = .next (given [.answer true, .answer false] selectState) ∧
    selectState.inputs = [] ∧
    (given [.answer true, .answer false] selectState).inputs = [true, false].map .answer ∧
    (lastPage s.dirty - firstPage s.dirty) *
      (1 + chunkCount (pageBytes s.build s.dirty) selectState.working.cmax.toNat) + 1 ≤ [true, false].length + 1 ∧
    awaitsAnswer selectState = true :=
  ⟨rfl, rfl, by decide, rfl, rfl, rfl, by decide, rfl⟩
theorem test_witness_ChunksRebuildTheRange : 1 ≤ 1 ∧ 1 ≤ 256 ∧ 62 % 31 = 0 ∧ 63 % 31 ≠ 0 := by decide
theorem test_witness_TransactionsFitMaxbuf :
    dataChunk Config.defaultBuild [0, 0, 0] ∈ flushSeq Config.defaultBuild [] ⟨0, 0, 7, 0⟩ (4 - 1) := by decide
theorem test_witness_EveryTouchedPageIsSent :
    DirtyOk Config.defaultBuild ⟨5, 7, 5, 8⟩ ∧ dirtyEmpty ⟨5, 7, 5, 8⟩ = false ∧ 0 < 16 ∧ 15 < 16 := by decide
theorem test_witness_RunningFlushRegistersInRange : Inv dataState ∧ dataState.busy = true ∧
    dataState.working.phase = .data := by decide
theorem test_witness_RunningFlushIgnoresTransportChange :
    (given [.transport false 3] selectState).inputs = .transport false 3 :: [] := rfl

end Sys2Proof.Tests
end

section
/-! The state after reset (10_state.md R47). -/

namespace Sys2Proof.Machine

/-- Settles O8: the rectangle after reset is the sentinel, whose corners the tracker laws read as signed
values; every other register is a field that `State.reset` gives directly. -/
theorem resetValues : Obligations.ResetValues :=
  ⟨rfl, rfl, rfl, ⟨sentinel_dx1, sentinel_dy1⟩, ⟨sentinel_dx2, sentinel_dy2⟩, rfl, rfl, rfl⟩

end Sys2Proof.Machine
end

section
/-! Illegal command words (30_encoding.md R112 to R114): what the fields of a word that decodes must be. -/

namespace Sys2Proof.Machine

/-- Every bit set in a field of `f` is set in the same field of `m`. -/
def FieldsWithin (f m : CommandFields) : Prop :=
  f.op &&& ~~~ m.op = 0 ∧ f.sub &&& ~~~ m.sub = 0 ∧ f.rsv &&& ~~~ m.rsv = 0 ∧ f.addr &&& ~~~ m.addr = 0 ∧
    f.x &&& ~~~ m.x = 0 ∧ f.y &&& ~~~ m.y = 0

theorem wordOf_and_not (f m : CommandFields) : wordOf f &&& ~~~ wordOf m =
    wordOf ⟨f.op &&& ~~~ m.op, f.sub &&& ~~~ m.sub, f.rsv &&& ~~~ m.rsv, f.addr &&& ~~~ m.addr, f.x &&& ~~~ m.x,
      f.y &&& ~~~ m.y⟩ := by
  unfold wordOf
  repeat rw [BitVec.not_append, BitVec.and_append]

/-- A word whose fields are within those of `m` has no bit outside `m`. -/
theorem and_not_eq_zero_of_fieldsWithin (w m : CommandWord) (h : FieldsWithin (fieldsOf w) (fieldsOf m)) :
    w &&& ~~~ m = 0 := by
  obtain ⟨hop, hsub, hrsv, haddr, hx, hy⟩ := h
  have hw := wordOf_and_not (fieldsOf w) (fieldsOf m)
  rw [wordOf_fieldsOf, wordOf_fieldsOf, hop, hsub, hrsv, haddr, hx, hy] at hw
  exact hw

/-- A value whose bits from `k` up are zero is within the mask of the `k` lowest bits. -/
theorem and_not_lowMask (n k : Nat) (v : BitVec n) (h : v.extractLsb' k (n - k) = 0) :
    v &&& ~~~ BitVec.ofNat n (2 ^ k - 1) = 0 := by
  apply BitVec.eq_of_getLsbD_eq
  intro i hi
  by_cases hk : i < k
  · have hmask : (BitVec.ofNat n (2 ^ k - 1)).getLsbD i = true := by
      simp [BitVec.getLsbD_ofNat, Nat.testBit_two_pow_sub_one, hi, hk]
    simp only [BitVec.getLsbD_and, BitVec.getLsbD_not, hmask]
    simp
  · have hbit : (v.extractLsb' k (n - k)).getLsbD (i - k) = false := by rw [h]; simp
    have hv : v.getLsbD i = false := by simpa [show i - k < n - k by omega, show k + (i - k) = i by omega] using hbit
    simp [hv]

/-! The tests of the decoder for the formats of 30_encoding.md R103, each with the bits its format uses. -/

/-- Format N: OP alone. -/
theorem fieldsWithin_formatN (f : CommandFields)
    (h : (f.sub == 0 && f.rsv == 0 && f.addr == 0 && f.x == 0 && f.y == 0) = true) :
    FieldsWithin f (fieldsOf 0xF000000000000000) := by
  simp only [Bool.and_eq_true, beq_iff_eq] at h
  simp [FieldsWithin, fieldsOf, h]

/-- Format S, for a field of the `k` lowest bits of SUB. -/
theorem fieldsWithin_formatS (f : CommandFields) (k : Nat) (m : CommandWord)
    (hm : fieldsOf m = ⟨0xF, BitVec.ofNat 4 (2 ^ k - 1), 0, 0, 0, 0⟩)
    (h : (f.sub.extractLsb' k (4 - k) == 0 && f.rsv == 0 && f.addr == 0 && f.x == 0 && f.y == 0) = true) :
    FieldsWithin f (fieldsOf m) := by
  simp only [Bool.and_eq_true, beq_iff_eq] at h
  obtain ⟨⟨⟨⟨hsub, hrsv⟩, haddr⟩, hx⟩, hy⟩ := h
  rw [hm]
  exact ⟨by simp, and_not_lowMask 4 k f.sub hsub, by simp [hrsv], by simp [haddr], by simp [hx], by simp [hy]⟩

/-- SETPIX: format P with the mode, SUB[1:0]. -/
theorem fieldsWithin_setpix (f : CommandFields)
    (h : (f.sub.extractLsb' 2 2 == 0 && f.rsv == 0 && f.addr == 0) = true) :
    FieldsWithin f (fieldsOf 0xF3000000FFFFFFFF) := by
  simp only [Bool.and_eq_true, beq_iff_eq] at h
  obtain ⟨⟨hsub, hrsv⟩, haddr⟩ := h
  have hmode := and_not_lowMask 4 2 f.sub hsub
  simp_all [FieldsWithin, fieldsOf]

/-- Format P: OP, X, Y. -/
theorem fieldsWithin_formatP (f : CommandFields) (h : (f.sub == 0 && f.rsv == 0 && f.addr == 0) = true) :
    FieldsWithin f (fieldsOf 0xF0000000FFFFFFFF) := by
  simp only [Bool.and_eq_true, beq_iff_eq] at h
  simp [FieldsWithin, fieldsOf, h]

/-- Format A: OP, ADDR. -/
theorem fieldsWithin_formatA (f : CommandFields) (h : (f.sub == 0 && f.rsv == 0 && f.x == 0 && f.y == 0) = true) :
    FieldsWithin f (fieldsOf 0xF000FFFF00000000) := by
  simp only [Bool.and_eq_true, beq_iff_eq] at h
  simp [FieldsWithin, fieldsOf, h]

/-- Format AW: OP, ADDR, DATA8. -/
theorem fieldsWithin_formatAW (f : CommandFields)
    (h : (f.sub == 0 && f.rsv == 0 && f.x == 0 && f.y.extractLsb' 8 8 == 0) = true) :
    FieldsWithin f (fieldsOf 0xF000FFFF000000FF) := by
  simp only [Bool.and_eq_true, beq_iff_eq] at h
  obtain ⟨⟨⟨hsub, hrsv⟩, hx⟩, hy⟩ := h
  have hdata := and_not_lowMask 16 8 f.y hy
  simp_all [FieldsWithin, fieldsOf]

/-- What 30_encoding.md R112, R113 and R114 ask of the fields of a command. -/
structure LegalFields (f : CommandFields) : Prop where
  opcode : f.op.toNat < 0xB
  used : FieldsWithin f (fieldsOf (usedBits f.op.toNat))
  mode : f.op.toNat = 3 → f.sub.extractLsb' 0 2 ≠ 3

theorem whenZero_eq_ok {b : Bool} {i j : Instr} (h : whenZero b i = .ok j) : b = true := by
  cases b with
  | true => rfl
  | false => cases h

/-- An opcode whose only test is its format. -/
theorem legalFields_of_whenZero (f : CommandFields) (n : Nat) (b : Bool) (i j : Instr) (hop : f.op.toNat = n)
    (hn : n < 0xB ∧ n ≠ 3) (hused : b = true → FieldsWithin f (fieldsOf (usedBits n)))
    (h : whenZero b i = .ok j) : LegalFields f := by
  subst hop
  exact ⟨hn.1, hused (whenZero_eq_ok h), fun h3 => absurd h3 hn.2⟩

/-- SETPIX, whose mode is tested after its format. -/
theorem legalFields_of_setpix (f : CommandFields) (b : Bool) (x y : Int) (j : Instr) (hop : f.op.toNat = 3)
    (hused : b = true → FieldsWithin f (fieldsOf (usedBits 3)))
    (h : (if b then setpixOfMode (f.sub.extractLsb' 0 2) x y else .error .unusedBitSet) = .ok j) :
    LegalFields f := by
  cases b with
  | false => cases h
  | true =>
    refine ⟨by omega, by rw [hop]; exact hused rfl, fun _ hmode => ?_⟩
    rw [hmode] at h
    cases h

/-- The decoder accepts no fields that R112, R113 or R114 forbid: one case for each opcode, by its format. -/
theorem legalFields_of_decodeFields (f : CommandFields) (i : Instr) (h : decodeFields f = .ok i) : LegalFields f := by
  simp only [decodeFields] at h
  split at h
  case h_1 hop => exact legalFields_of_whenZero f 0 _ _ i hop (by decide) (fieldsWithin_formatN f) h
  case h_2 hop => exact legalFields_of_whenZero f 1 _ _ i hop (by decide) (fieldsWithin_formatS f 1 _ rfl) h
  case h_3 hop => exact legalFields_of_whenZero f 2 _ _ i hop (by decide) (fieldsWithin_formatS f 2 _ rfl) h
  case h_4 hop => exact legalFields_of_setpix f _ _ _ i hop (fieldsWithin_setpix f) h
  case h_5 hop => exact legalFields_of_whenZero f 4 _ _ i hop (by decide) (fieldsWithin_formatP f) h
  case h_6 hop => exact legalFields_of_whenZero f 5 _ _ i hop (by decide) (fieldsWithin_formatN f) h
  case h_7 hop => exact legalFields_of_whenZero f 6 _ _ i hop (by decide) (fieldsWithin_formatP f) h
  case h_8 hop => exact legalFields_of_whenZero f 7 _ _ i hop (by decide) (fieldsWithin_formatN f) h
  case h_9 hop => exact legalFields_of_whenZero f 8 _ _ i hop (by decide) (fieldsWithin_formatA f) h
  case h_10 hop => exact legalFields_of_whenZero f 9 _ _ i hop (by decide) (fieldsWithin_formatAW f) h
  case h_11 hop => exact legalFields_of_whenZero f 10 _ _ i hop (by decide) (fieldsWithin_formatA f) h
  case h_12 => cases h

/-- SUB[1:0] of the word (30_encoding.md R101). -/
theorem extractLsb'_fieldsOf_sub (w : CommandWord) : (fieldsOf w).sub.extractLsb' 0 2 = w.extractLsb' 56 2 := by
  apply BitVec.eq_of_toNat_eq
  simp only [fieldsOf, BitVec.extractLsb'_toNat, Nat.shiftRight_eq_div_pow]
  omega

/-- A word that is illegal by one of 30_encoding.md R112, R113, R114 does not decode. -/
theorem decode_error_of_illegal (w : CommandWord)
    (h : 0xB ≤ (w.extractLsb' 60 4).toNat ∨ w &&& ~~~ usedBits (w.extractLsb' 60 4).toNat ≠ 0 ∨
      ((w.extractLsb' 60 4).toNat = 3 ∧ (w.extractLsb' 56 2).toNat = 3)) : ∃ e, decode w = .error e := by
  cases hd : decode w with
  | error e => exact ⟨e, rfl⟩
  | ok i =>
    exfalso
    have hl : LegalFields (fieldsOf w) := legalFields_of_decodeFields (fieldsOf w) i hd
    rcases h with hop | hbit | ⟨hop, hmode⟩
    · exact absurd hl.opcode (Nat.not_lt.mpr hop)
    · exact hbit (and_not_eq_zero_of_fieldsWithin w _ hl.used)
    · refine hl.mode hop ?_
      rw [extractLsb'_fieldsOf_sub]
      exact BitVec.eq_of_toNat_eq hmode

/-- A word that does not decode raises F_ILL, in every state (60_exceptions.md R273, check 1). -/
theorem acceptWord_of_error (w : CommandWord) (s : State) (e : Illegal) (h : decode w = .error e) :
    acceptWord w s = .next (raiseFault .fIll s) := by
  simp only [acceptWord, h]

/-- Settles O6: the three causes keep the word from decoding, and what the step then does is `raiseFault` of F_ILL on
the state whose oldest input was taken. -/
theorem illegalWordFaults : Obligations.IllegalWordFaults := by
  intro s w rest hin hillegal
  obtain ⟨e, he⟩ := decode_error_of_illegal w hillegal
  calc step s = acceptWord w (popInput s) := step_of_cons s _ rest hin
    _ = .next (raiseFault .fIll (popInput s)) := acceptWord_of_error w _ e he
    _ = _ := by rw [popInput_of_cons s _ rest hin]; rfl

end Sys2Proof.Machine
end

section
/-! ROT and the commands in physical coordinates (40_transform.md R148): two runs from states that differ in ROT alone. -/

namespace Sys2Proof.Machine

/-- From `s`, `k` answers a next state, the same with ROT = `r` but for ROT itself. -/
def IgnoresRotation (k : State → Result) (s : State) (r : Rotation) : Prop :=
  ∃ t, k s = .next t ∧ k { s with rot := r } = .next { t with rot := r }

/-- The shared checks (60_exceptions.md R273) read BUSY and LIFE alone, so a command ignores ROT where its own rule does. -/
theorem ignoresRotation_accept (need : LifeNeed) (k : State → Result) (s : State) (r : Rotation)
    (hk : IgnoresRotation k s r) : IgnoresRotation (accept need · k) s r := by
  rcases accept_cases need s k with ⟨hb, h⟩ | ⟨f, hb, hl, h⟩ | ⟨hb, hl, h⟩
  · exact ⟨_, h, accept_busy need { s with rot := r } k hb⟩
  · exact ⟨_, h, accept_fault need { s with rot := r } k f hb hl⟩
  · obtain ⟨t, ht, htr⟩ := hk
    exact ⟨t, h.trans ht, (accept_passes need { s with rot := r } k hb hl).trans htr⟩

/-- A rule that branches on a condition which ROT does not change ignores ROT where both branches do. -/
theorem ignoresRotation_ite (c : State → Prop) [DecidablePred c] (a b : State → Result) (s : State) (r : Rotation)
    (hc : c { s with rot := r } ↔ c s) (ha : IgnoresRotation a s r) (hb : IgnoresRotation b s r) :
    IgnoresRotation (fun s => if c s then a s else b s) s r := by
  by_cases h : c s
  · simpa only [IgnoresRotation, if_pos h, if_pos (hc.2 h)] using ha
  · simpa only [IgnoresRotation, if_neg h, if_neg (mt hc.1 h)] using hb

/-- FLUSH: the empty check reads the rectangle, the transport check XPORT, the set-up the rectangle, W and XPORT
(43_flush.md R211 to R213). -/
theorem flush_ignoresRotation (s : State) (r : Rotation) : IgnoresRotation (exec .flush) s r :=
  ignoresRotation_accept .ready _ s r <|
    ignoresRotation_ite (fun s => dirtyEmpty s.dirty = true) _ _ s r Iff.rfl ⟨_, rfl, rfl⟩ <|
      ignoresRotation_ite (fun s => s.xport.ready = false ∨ s.xport.maxbuf.toNat < 4) _ _ s r Iff.rfl
        ⟨_, rfl, rfl⟩ ⟨_, rfl, rfl⟩

/-- MARK: the bounds check is against W and H, not LW and LH (42_dirty.md R193). -/
theorem mark_ignoresRotation (x y : Int) (s : State) (r : Rotation) : IgnoresRotation (exec (.mark x y)) s r :=
  ignoresRotation_accept .ready _ s r <|
    ignoresRotation_ite (fun s => InPhysicalRange s.build x y) _ _ s r Iff.rfl ⟨_, rfl, rfl⟩ ⟨_, rfl, rfl⟩

theorem clear_ignoresRotation (s : State) (r : Rotation) : IgnoresRotation (exec .clear) s r :=
  ignoresRotation_accept .ready _ s r ⟨_, rfl, rfl⟩

theorem fbrd_ignoresRotation (addr : Nat) (s : State) (r : Rotation) : IgnoresRotation (exec (.fbrd addr)) s r := by
  rw [funext (exec_fbrd addr)]
  exact ignoresRotation_accept .ready _ s r <|
    ignoresRotation_ite (fun s => fbSize s.build ≤ addr) _ _ s r Iff.rfl ⟨_, rfl, rfl⟩ ⟨_, rfl, rfl⟩

theorem fbwr_ignoresRotation (addr : Nat) (byte : Byte) (s : State) (r : Rotation) :
    IgnoresRotation (exec (.fbwr addr byte)) s r := by
  rw [funext (exec_fbwr addr byte)]
  exact ignoresRotation_accept .ready _ s r <|
    ignoresRotation_ite (fun s => fbSize s.build ≤ addr) _ _ s r Iff.rfl ⟨_, rfl, rfl⟩ ⟨_, rfl, rfl⟩

/-- Each change that a step of a running FLUSH makes is the same change for every value of ROT. -/
theorem flushStep_withRot (ok : Bool) (s t : State) (r : Rotation) (h : flushStep ok s = .next t) :
    flushStep ok { s with rot := r } = .next { t with rot := r } := by
  cases change_of_flushStep ok s t h with
  | selects _ hp => exact flushStep_select { s with rot := r } hp
  | sends _ hp hr => exact flushStep_data { s with rot := r } hp hr
  | aborts _ x hp hx => exact flushStep_fail { s with rot := r } x hp hx
  | completes _ _ hp => exact flushStep_done ok { s with rot := r } hp

/-- Settles O42, by the rule of each of the five commands and by what a step of a running FLUSH can do. -/
theorem physicalCommandsIgnoreRotation : Obligations.PhysicalCommandsIgnoreRotation := by
  intro s r
  refine ⟨fun x y addr byte i hi => ?_, fun ok t h => flushStep_withRot ok s t r h⟩
  simp only [List.mem_cons, List.not_mem_nil, or_false] at hi
  rcases hi with rfl | rfl | rfl | rfl | rfl
  · exact flush_ignoresRotation s r
  · exact mark_ignoresRotation x y s r
  · exact clear_ignoresRotation s r
  · exact fbrd_ignoresRotation addr s r
  · exact fbwr_ignoresRotation addr byte s r

end Sys2Proof.Machine
end

section
/-! The pixel commands (41_pixel.md): SETPIX in range and clipped, GETPIX out of range, and FBRD. -/

namespace Sys2Proof.Machine

/-- A write of the framebuffer, read byte by byte (20_memory.md R72). -/
theorem storesByte_write (m : Memory) (a : Nat) (v : Byte) (hm : m.wf) : StoresByte a v m (m.write a v) := by
  refine ⟨?_, fun b hb => ?_⟩
  · rw [Memory.read_write m a a v hm.1, if_pos rfl]
  · rw [Memory.read_write m a b v hm.1, if_neg hb]

/-- The response OK puts one word out, the data, and changes nothing else (30_encoding.md R110). -/
theorem respond_ok (v : Half) (s : State) :
    respond .ok v s = { s with events := s.events ++ [.response (v.setWidth 32)] } := by
  rw [respond, emitEvent, responseWord_ok]

theorem respond_ok_zero (s : State) :
    respond .ok 0 s = { s with events := s.events ++ [.response 0x00000000#32] } := respond_ok 0 s

/-- SETPIX in range, in any mode: the byte is stored and the rectangle widened by the physical point, which lies in the
buffer (41_pixel.md R161, R162). -/
theorem setPixel_setsPixel (mode : PixelMode) (x y : Int) (s : State) (hfb : s.fb.wf)
    (hxy : InLogicalRange s.build s.rot x y) : SetsPixel (applyMode mode) x y s (setPixel mode x y s) := by
  have hp := transform_inPhysicalRange s.build s.rot x y hxy
  refine ⟨_, _, ?_, storesByte_write s.fb _ _ hfb, markDirty_widens s.build _ _ s.dirty hp⟩
  rw [setPixel_inRange mode x y s hxy, pixelWritten, respond_ok_zero]

/-- Settles O32: the three modes are one rule, `setPixel_setsPixel`, with the byte function of each. -/
theorem setpixWritesItsBit : Obligations.SetpixWritesItsBit := by
  intro s x y hb hr hfb hxy
  rw [exec_setpixClear, exec_setpixSet, exec_setpixInvert]
  simp only [accept_ready s _ hb hr]
  exact ⟨setPixel_setsPixel .clear x y s hfb hxy, setPixel_setsPixel .set x y s hfb hxy,
    setPixel_setsPixel .invert x y s hfb hxy⟩

/-- Settles O33: the clip test comes before the mode is used, so the three modes are one case. -/
theorem clippedSetpixChangesNothing : Obligations.ClippedSetpixChangesNothing := by
  intro s x y hb hr hxy
  have hclip (mode : PixelMode) : accept .ready s (setPixel mode x y) =
      .next { s with events := s.events ++ [.response 0x00000000#32] } := by
    rw [accept_ready s _ hb hr, setPixel_clipped mode x y s hxy, respond_ok_zero]
  exact ⟨hclip .clear, hclip .set, hclip .invert⟩

/-- Settles O35, by the rule of GETPIX out of range. -/
theorem outOfRangeGetpixIsOff : Obligations.OutOfRangeGetpixIsOff := by
  intro s x y hb hr hxy
  rw [exec_getpix, accept_ready s _ hb hr, if_neg hxy, respond_ok_zero]

/-- Settles O39: the byte goes through the 16 bits of DATA, which hold it whole. -/
theorem fbrdReadsTheByte : Obligations.FbrdReadsTheByte := by
  intro s addr hb hr haddr
  rw [exec_fbrd, accept_ready s _ hb hr, if_neg (Nat.not_le.mpr haddr), respond_ok,
    BitVec.setWidth_setWidth (by decide)]

end Sys2Proof.Machine
end

section
/-! The accepting step of FLUSH (43_flush.md R210 to R213): its three outcomes, and CMAX for the whole FLUSH. -/

namespace Sys2Proof.Machine

/-! The three outcomes of a FLUSH that passes the shared checks. -/

/-- R211: the empty region. -/
theorem exec_flush_empty (s : State) (hb : s.busy = false) (hr : s.life = .ready) (he : dirtyEmpty s.dirty = true) :
    exec .flush s = .next (respond .ok 0 { s with lfail := false }) := by
  rw [exec_flush, accept_ready s _ hb hr, if_pos he]

/-- R212: the transport check fails. -/
theorem exec_flush_noTransport (s : State) (hb : s.busy = false) (hr : s.life = .ready)
    (he : dirtyEmpty s.dirty = false) (hx : s.xport.ready = false ∨ s.xport.maxbuf.toNat < 4) :
    exec .flush s = .next (raiseFault .fXport s) := by
  rw [exec_flush, accept_ready s _ hb hr, if_neg (by simp [he]), if_pos hx]

/-- R213: the FLUSH starts. -/
theorem exec_flush_starts (s : State) (hb : s.busy = false) (hr : s.life = .ready) (he : dirtyEmpty s.dirty = false)
    (hx : s.xport.ready = true) (hm : 4 ≤ s.xport.maxbuf.toNat) :
    exec .flush s = .next { s with working := flushSetup s, busy := true } := by
  have hpass : ¬ (s.xport.ready = false ∨ s.xport.maxbuf.toNat < 4) := by simp [hx, hm]
  rw [exec_flush, accept_ready s _ hb hr, if_neg (by simp [he]), if_neg hpass]

/-- Where 10_state.md R39 holds, only the sentinel is empty. -/
theorem eq_sentinel_of_empty (b : Build) (d : Dirty) (hd : DirtyOk b d) (he : dirtyEmpty d = true) :
    d = Dirty.sentinel := by
  rcases hd with hs | ⟨⟨-, hx, -⟩, -, hy, -⟩
  · exact hs
  · have hgt : d.dx1.toInt > d.dx2.toInt ∨ d.dy1.toInt > d.dy2.toInt := of_decide_eq_true he
    omega

/-- Settles O46: the empty check comes before the transport check, so XPORT is not read. -/
theorem emptyFlushOnlyResponds : Obligations.EmptyFlushOnlyResponds := by
  intro s hb hr he
  refine ⟨?_, fun hd => eq_sentinel_of_empty s.build s.dirty hd he⟩
  rw [exec_flush_empty s hb hr he, respond_ok_zero]

/-! CMAX after each part of a FLUSH. -/

@[simp] theorem afterSelect_cmax (b : Build) (w : Working) : (afterSelect b w).cmax = w.cmax := by
  simp only [afterSelect]
  split <;> rfl

@[simp] theorem afterChunk_cmax (n : Nat) (w : Working) : (afterChunk n w).cmax = w.cmax := by
  simp only [afterChunk]
  split <;> rfl

/-- A step that does not end the FLUSH is a transaction answered ok, and neither kind changes CMAX. -/
theorem flushStep_keepsCmax (ok : Bool) (s t : State) (h : flushStep ok s = .next t) (hb : t.busy = true) :
    t.working.cmax = s.working.cmax := by
  cases change_of_flushStep ok s t h with
  | selects => exact afterSelect_cmax s.build s.working
  | sends => exact afterChunk_cmax _ s.working
  | aborts => simp at hb
  | completes => simp at hb

/-- Settles O47: the two outcomes of the transport check, and what a step of the flush state machine can do. -/
theorem flushNeedsTheTransport : Obligations.FlushNeedsTheTransport := by
  refine ⟨fun s hb hr he => ⟨fun hx => ?_, fun hx hm => ?_⟩, flushStep_keepsCmax⟩
  · rw [exec_flush_noTransport s hb hr he hx]
    rfl
  · exact ⟨_, exec_flush_starts s hb hr he hx hm, flushSetup_cmax s hm⟩

end Sys2Proof.Machine
end

section
/-! The pages and columns of a FLUSH (43_flush.md R213): the working registers that the accepting step writes, as integers. -/

namespace Sys2Proof.Machine

/-- The page range of a non-empty rectangle (43_flush.md R213): `0 <= first_page < last_page <= PAGES`. -/
theorem pageRange_of_nonempty (b : Build) (d : Dirty) (hd : DirtyOk b d) (he : dirtyEmpty d = false) :
    0 ≤ d.dy1.toInt / 8 ∧ d.dy1.toInt / 8 < (d.dy2.toInt + 8) / 8 ∧ (d.dy2.toInt + 8) / 8 ≤ pages b := by
  obtain ⟨-, hy⟩ := bounds_of_nonempty b d hd he
  unfold pages
  omega

/-- A value within the width of a register reads back from it. -/
theorem natCast_toNat_ofInt (n : Nat) (v : Int) (h0 : 0 ≤ v) (h : v < 2 ^ n) :
    ((BitVec.ofInt n v).toNat : Int) = v := by
  rw [toNat_ofInt_of_lt n v h0 h, Int.toNat_of_nonneg h0]

/-- FP and LP after the accepting step: the page range fits their five bits. -/
theorem flushSetup_pages (s : State) (hd : DirtyOk s.build s.dirty) (he : dirtyEmpty s.dirty = false) :
    ((flushSetup s).fp.toNat : Int) = s.dirty.dy1.toInt / 8 ∧
      ((flushSetup s).lp.toNat : Int) = (s.dirty.dy2.toInt + 8) / 8 := by
  have hrange := pageRange_of_nonempty s.build s.dirty hd he
  have hpages := pages_le s.build
  exact ⟨natCast_toNat_ofInt 5 _ (by omega) (by omega), natCast_toNat_ofInt 5 _ (by omega) (by omega)⟩

/-- A clamped column is a column of the buffer (43_flush.md R213). -/
theorem clampColumn_range (b : Build) (d : Half) : 0 ≤ clampColumn b d ∧ clampColumn b d ≤ b.w - 1 := by
  have := b.w_range
  unfold clampColumn clamp
  omega

/-- A clamped column fits the eight bits of CS and CE. -/
theorem clampColumn_toNat (b : Build) (d : Half) :
    ((BitVec.ofInt 8 (clampColumn b d)).toNat : Int) = clampColumn b d := by
  have hc := clampColumn_range b d
  have hw := b.w_range
  exact natCast_toNat_ofInt 8 _ (by omega) (by omega)

/-- CS and CE after the accepting step: the clamps change nothing. -/
theorem flushSetup_columns (s : State) (hd : DirtyOk s.build s.dirty) (he : dirtyEmpty s.dirty = false) :
    ((flushSetup s).cs.toNat : Int) = s.dirty.dx1.toInt ∧ ((flushSetup s).ce.toNat : Int) = s.dirty.dx2.toInt := by
  obtain ⟨hx, -⟩ := bounds_of_nonempty s.build s.dirty hd he
  exact ⟨(clampColumn_toNat _ _).trans (clampColumn_of_inRange _ _ (by omega)),
    (clampColumn_toNat _ _).trans (clampColumn_of_inRange _ _ (by omega))⟩

/-- The set-up of a page range that is not empty begins with a page-select (43_flush.md R225). -/
theorem flushSetup_phase (s : State) (h : (flushSetup s).fp.toNat < (flushSetup s).lp.toNat) :
    (flushSetup s).phase = .select := if_pos h

/-- The rows of the full rectangle, which CLEAR leaves, lie on every page (42_dirty.md R195). -/
theorem pageRange_dirtyFull (b : Build) :
    (dirtyFull b).dy1.toInt / 8 = 0 ∧ ((dirtyFull b).dy2.toInt + 8) / 8 = pages b := by
  obtain ⟨-, hy1, -, hy2⟩ := dirtyFull_toInt b
  rw [hy1, hy2]
  unfold pages
  omega

/-- Settles O48: the registers as integers, with the ranges of the rectangle they are set up from. -/
theorem flushSetsUpItsPages : Obligations.FlushSetsUpItsPages := by
  intro s hb hr hd he hx hm
  have hrange := pageRange_of_nonempty s.build s.dirty hd he
  obtain ⟨hcols, -⟩ := bounds_of_nonempty s.build s.dirty hd he
  obtain ⟨hfp, hlp⟩ := flushSetup_pages s hd he
  obtain ⟨hcs, hce⟩ := flushSetup_columns s hd he
  refine ⟨flushSetup s, exec_flush_starts s hb hr he hx hm, flushSetup_phase s (by omega), ⟨hfp, by omega⟩, ⟨hcs, hce⟩,
    by omega, by omega, fun hfull => ?_⟩
  have hall := pageRange_dirtyFull s.build
  rw [← hfull] at hall
  omega

end Sys2Proof.Machine
end

section
/-! The transactions of a running FLUSH (43_flush.md R216, R218, R221): under `Inv` every chunk lies in the framebuffer, so
each phase but DONE has its transaction. -/

namespace Sys2Proof.Machine

/-- XPORT's answer to a waiting transaction is one step of the flush state machine (43_flush.md R220). -/
theorem step_answer_awaited (s : State) (ok : Bool) (rest : List Input) (hb : s.busy = true)
    (hp : s.working.phase ≠ .done) (hin : s.inputs = .answer ok :: rest) :
    step s = flushStep ok { s with inputs := rest } := by
  rw [step_of_cons s _ rest hin, popInput_of_cons s _ rest hin]
  exact takeAnswer_awaited ok _ hb hp

theorem endColumn_lt (b : Build) (d : Dirty) : endColumn b d < b.w := by
  have := clampColumn_range b d.dx2
  unfold endColumn
  omega

theorem lastPage_le_pages (b : Build) (d : Dirty) (hd : DirtyOk b d) (he : dirtyEmpty d = false) :
    lastPage d ≤ pages b := by
  have := pageRange_of_nonempty b d hd he
  unfold lastPage
  omega

/-- The page of a running FLUSH that is not done is a page of the framebuffer, below LP. -/
theorem page_lt_of_running (b : Build) (d : Dirty) (w : Working) (hd : DirtyOk b d) (hw : WorkingOk b d w)
    (hp : w.phase ≠ .done) : w.fp.toNat < w.lp.toNat ∧ w.lp.toNat ≤ pages b := by
  obtain ⟨he, -, ⟨hlp, -, hle⟩, -, hdone, -⟩ := hw
  exact ⟨Nat.lt_of_le_of_ne hle (mt hdone.2 hp), hlp ▸ lastPage_le_pages b d hd he⟩

/-- The bytes still to send are in the framebuffer: they end at column CE of page FP. -/
theorem remaining_inFramebuffer (b : Build) (d : Dirty) (w : Working) (hd : DirtyOk b d) (hw : WorkingOk b d w)
    (hp : w.phase = .data) : w.ptr.toNat + w.rem.toNat ≤ fbSize b := by
  obtain ⟨hlt, hle⟩ := page_lt_of_running b d w hd hw (by simp [hp])
  obtain ⟨-, -, -, ⟨-, hce⟩, -, hdata⟩ := hw
  obtain ⟨-, -, hend⟩ := hdata hp
  have hcol : w.ce.toNat + 1 ≤ b.w := hce ▸ endColumn_lt b d
  have := page_bytes_le b w.fp.toNat w.ce.toNat 1 (Nat.lt_of_lt_of_le hlt hle) hcol
  omega

theorem chunkSize_le_rem (w : Working) : chunkSize w ≤ w.rem.toNat := Nat.min_le_left _ _

/-- The next chunk is in the framebuffer, so `MemRead` is defined on each of its bytes (20_memory.md R71). -/
theorem chunk_inFramebuffer (b : Build) (d : Dirty) (w : Working) (hd : DirtyOk b d) (hw : WorkingOk b d w)
    (hp : w.phase = .data) : w.ptr.toNat + chunkSize w ≤ fbSize b :=
  Nat.le_trans (Nat.add_le_add_left (chunkSize_le_rem w) _) (remaining_inFramebuffer b d w hd hw hp)

/-- A chunk has a byte to send: REM is at least 1 in DATA and CMAX at least 3. -/
theorem one_le_chunkSize (b : Build) (d : Dirty) (w : Working) (hw : WorkingOk b d w) (hp : w.phase = .data) :
    1 ≤ chunkSize w := by
  obtain ⟨-, ⟨hcmax, -⟩, -, -, -, hdata⟩ := hw
  obtain ⟨hrem, -⟩ := hdata hp
  unfold chunkSize
  omega

/-- A running FLUSH that is not done has a transaction with XPORT (43_flush.md R220). -/
theorem currentTransaction_of_running (s : State) (hd : DirtyOk s.build s.dirty)
    (hw : WorkingOk s.build s.dirty s.working) (hp : s.working.phase ≠ .done) :
    ∃ x, currentTransaction s = some x := by
  cases h : s.working.phase with
  | select => exact ⟨_, currentTransaction_select s h⟩
  | data => exact ⟨_, currentTransaction_data s h (chunk_inFramebuffer s.build s.dirty s.working hd hw h)⟩
  | done => exact absurd h hp

/-- What an abort leaves, field by field (43_flush.md R221). -/
theorem abortFlush_eq (s : State) : abortFlush s = { s with
    lfail := true
    busy := false
    working := freeWorking s.draws
    draws := s.draws + 1
    events := s.events ++ [.response 0x09000000#32] } := rfl

/-- Settles O51: every phase but DONE has its transaction, and its failure is `abortFlush`. -/
theorem failedTransactionAborts : Obligations.FailedTransactionAborts := by
  intro s rest hinv hb hp hin
  obtain ⟨hd, -, -, -, hwork⟩ := hinv
  obtain ⟨x, hx⟩ := currentTransaction_of_running s hd (hwork hb) hp
  refine ⟨x, freeWorking s.draws, s.draws + 1, hx, ?_⟩
  rw [step_answer_awaited s false rest hb hp hin, flushStep_fail { s with inputs := rest } x hp hx, abortFlush_eq]
  simp only [emitEvent, List.append_assoc, List.cons_append, List.nil_append]

/-! PTR, REM and FP after a data chunk (43_flush.md R218, R225). -/

@[simp] theorem afterChunk_ptr (n : Nat) (w : Working) : (afterChunk n w).ptr = w.ptr + BitVec.ofNat 13 n := by
  simp only [afterChunk]
  split <;> rfl

@[simp] theorem afterChunk_rem (n : Nat) (w : Working) : (afterChunk n w).rem = w.rem - BitVec.ofNat 9 n := by
  simp only [afterChunk]
  split <;> rfl

/-- PTR moves by the chunk without wrapping: 13 bits hold every framebuffer address and FBSIZE. -/
theorem add_chunk_toNat (b : Build) (w : Working) (n : Nat) (h : w.ptr.toNat + n ≤ fbSize b) :
    (w.ptr + BitVec.ofNat 13 n).toNat = w.ptr.toNat + n := by
  have := fbSize_le b
  rw [BitVec.toNat_add, BitVec.toNat_ofNat]
  omega

/-- FP moves to the next page without wrapping: LP is at most 16. -/
theorem next_page_toNat (b : Build) (w : Working) (h : w.fp.toNat < w.lp.toNat ∧ w.lp.toNat ≤ pages b) :
    (w.fp + 1).toNat = w.fp.toNat + 1 := by
  have := pages_le b
  rw [BitVec.toNat_add, show (1 : BitVec 5).toNat = 1 from rfl]
  omega

/-- Settles O50: the DATA step is `flushStep_data`, and `afterChunk` on a chunk that lies in the framebuffer has a case
for a page with bytes left and one for a page that ends. -/
theorem dataStepSendsChunk : Obligations.DataStepSendsChunk := by
  intro s rest hinv hb hp hin n
  obtain ⟨hd, -, -, -, hwork⟩ := hinv
  have hw := hwork hb
  have hnd : s.working.phase ≠ .done := by simp [hp]
  have hchunk := chunk_inFramebuffer s.build s.dirty s.working hd hw hp
  refine ⟨afterChunk n s.working, ?_, one_le_chunkSize s.build s.dirty s.working hw hp, ?_, ?_, fun hmore => ?_,
    fun hlast => ?_⟩
  · rw [step_answer_awaited s true rest hb hnd hin]
    exact flushStep_data { s with inputs := rest } hp hchunk
  · rw [afterChunk_ptr]
    exact add_chunk_toNat s.build s.working n hchunk
  · rw [afterChunk_rem]
    exact sub_chunk_toNat s.working n (chunkSize_le_rem s.working)
  · rw [afterChunk_more s.working n hmore]
  · rw [afterChunk_last s.working n hlast]
    exact ⟨next_page_toNat s.build s.working (page_lt_of_running s.build s.dirty s.working hd hw hnd), rfl, rfl⟩

end Sys2Proof.Machine
end

section
/-! The control commands INIT and RDREG (44_control.md): INIT where it is accepted and where it is not, and the register
map. -/

namespace Sys2Proof.Machine

/-! INIT (44_control.md R251 to R254). -/

/-- Check 3 of INIT: LIFE READY and FAILED fail alike. -/
theorem lifeFault_uninit_of_ne (life : Life) (h : life ≠ .uninit) : lifeFault .uninit life = some .fReinit := by
  cases life with
  | uninit => exact absurd rfl h
  | ready => rfl
  | failed => rfl

/-- Settles O23: the lifecycle check of INIT raises F_REINIT. -/
theorem secondInitFaults : Obligations.SecondInitFaults := by
  intro s rst hb hl
  rw [exec_init, accept_fault _ s _ .fReinit hb (lifeFault_uninit_of_ne s.life hl)]
  rfl

/-- `zeroBelow`, read byte by byte. -/
theorem zeroesBelow_zeroBelow (m : Memory) (n : Nat) : ZeroesBelow n m (m.zeroBelow n) := by
  refine ⟨fun a ha => ?_, fun a ha => ?_⟩
  · rw [Memory.read_zeroBelow, if_pos ha]
    rfl
  · rw [Memory.read_zeroBelow, if_neg (Nat.not_lt.mpr ha)]

/-- The reset request is one event or none, and nothing else (44_control.md R252). -/
theorem signalReset_eq (rst : Bool) (s : State) :
    signalReset rst s = { s with events := s.events ++ if rst then [.extRstReq] else [] } := by
  cases rst with
  | false => simp [signalReset]
  | true => rfl

/-- INIT from UNINIT with both environment inputs 1 (44_control.md R251). -/
theorem exec_init_succeeds (rst : Bool) (s : State) (hb : s.busy = false) (hu : s.life = .uninit)
    (ha : s.allocOk = true) (hbus : s.busOk = true) :
    exec (.init rst) s = .next (respond .ok 0 (signalReset rst (initialised s))) := by
  rw [exec_init, accept_uninit s _ hb hu, if_neg (by simp [ha]), if_neg (by simp [hbus])]

/-- Settles O27: the framebuffer that INIT leaves is `zeroBelow` FBSIZE, and the request comes before the response. -/
theorem initSucceeds : Obligations.InitSucceeds := by
  intro s rst hb hu ha hbus
  refine ⟨s.fb.zeroBelow (fbSize s.build), ?_, zeroesBelow_zeroBelow s.fb (fbSize s.build)⟩
  rw [exec_init_succeeds rst s hb hu ha hbus, signalReset_eq, respond_ok_zero]
  rfl

/-! RDREG (44_control.md R255, R256). -/

/-- An index of the map is answered with its register, whatever BUSY and LIFE are. -/
theorem exec_rdreg_of_some (s : State) (idx : Nat) (v : Half) (h : registerValue s idx = some v) :
    exec (.rdreg idx) s = .next { s with events := s.events ++ [.response (v.setWidth 32)] } := by
  rw [← respond_ok]
  show execRdreg idx s = _
  simp only [execRdreg, h]

theorem exec_rdreg_of_none (s : State) (idx : Nat) (h : registerValue s idx = none) :
    exec (.rdreg idx) s = .next (raiseFault .fIll s) := by
  show execRdreg idx s = _
  simp only [execRdreg, h]

theorem registerValue_reserved (s : State) (idx : Nat) (h : 12 ≤ idx) : registerValue s idx = none := by
  obtain ⟨k, rfl⟩ := Nat.exists_eq_add_of_le' h
  rfl

/-- The rotations' register values are their codes (10_state.md R35). -/
theorem rotationValue_eq (r : Rotation) :
    rotationValue r = match r with
      | .deg0 => 0
      | .deg90 => 1
      | .deg180 => 2
      | .deg270 => 3 := by
  cases r <;> rfl

/-- LW is W exactly in the two rotations that keep the axes (10_state.md R36). -/
theorem logicalWidth_eq_ite (b : Build) (r : Rotation) :
    logicalWidth b r = if r = .deg0 ∨ r = .deg180 then b.w else b.h := by
  cases r <;> rfl

theorem logicalHeight_eq_ite (b : Build) (r : Rotation) :
    logicalHeight b r = if r = .deg0 ∨ r = .deg180 then b.h else b.w := by
  cases r <;> rfl

/-- Settles O29: each index is a row of `registerValue`, and only ROT, LWIDTH and LHEIGHT are given there in another
form. -/
theorem rdregReadsTheMap : Obligations.RdregReadsTheMap := by
  intro s reads
  have row (idx : Nat) (v : Half) (h : registerValue s idx = some v) : reads idx v := exec_rdreg_of_some s idx v h
  refine ⟨⟨row 0 _ rfl, row 1 _ ?rot, row 2 _ rfl, row 3 _ rfl, row 4 _ rfl, row 5 _ rfl, row 6 _ rfl, row 7 _ rfl,
    row 8 _ ?lwidth, row 9 _ ?lheight, row 10 _ rfl, row 11 _ rfl⟩, fun idx hidx => ?reserved⟩
  case rot => exact congrArg some (rotationValue_eq s.rot)
  case lwidth => exact congrArg (fun n => some (BitVec.ofNat 16 n)) (logicalWidth_eq_ite s.build s.rot)
  case lheight => exact congrArg (fun n => some (BitVec.ofNat 16 n)) (logicalHeight_eq_ite s.build s.rot)
  case reserved =>
    rw [exec_rdreg_of_none s idx (registerValue_reserved s idx hidx)]
    rfl

end Sys2Proof.Machine
end

section
/-! The faults of a command (60_exceptions.md R273 to R279, R287): which checks each command goes through, how every
command is answered, and that no step but reset clears a sticky bit. -/

namespace Sys2Proof.Machine

/-! The checks of a command (60_exceptions.md R273). -/

/-- What a command needs of LIFE (60_exceptions.md R273, check 3). RDREG goes through no check, so its entry stands for
no requirement. -/
def lifeNeed : Instr → LifeNeed
  | .nop | .rot _ | .rdreg _ => .any
  | .init _ => .uninit
  | _ => .ready

/-- Every command but RDREG is its own rule behind the two shared checks. -/
theorem exec_eq_accept (i : Instr) (s : State) (hi : ∀ idx, i ≠ .rdreg idx) :
    ∃ k, exec i s = accept (lifeNeed i) s k := by
  cases i with
  | nop => exact ⟨_, exec_nop s⟩
  | init rst => exact ⟨_, exec_init rst s⟩
  | rot r => exact ⟨_, exec_rot r s⟩
  | setpixClear x y => exact ⟨_, exec_setpixClear x y s⟩
  | setpixSet x y => exact ⟨_, exec_setpixSet x y s⟩
  | setpixInvert x y => exact ⟨_, exec_setpixInvert x y s⟩
  | getpix x y => exact ⟨_, exec_getpix x y s⟩
  | clear => exact ⟨_, exec_clear s⟩
  | mark x y => exact ⟨_, exec_mark x y s⟩
  | flush => exact ⟨_, exec_flush s⟩
  | fbrd addr => exact ⟨_, exec_fbrd addr s⟩
  | fbwr addr byte => exact ⟨_, exec_fbwr addr byte s⟩
  | rdreg idx => exact absurd rfl (hi idx)

/-- The buffer and flush commands of 60_exceptions.md R277 are those that need READY. -/
theorem lifeNeed_eq_ready (i : Instr) (hnop : i ≠ .nop) (hinit : ∀ rst, i ≠ .init rst) (hrot : ∀ r, i ≠ .rot r)
    (hrdreg : ∀ idx, i ≠ .rdreg idx) : lifeNeed i = .ready := by
  cases i with
  | nop => exact absurd rfl hnop
  | init rst => exact absurd rfl (hinit rst)
  | rot r => exact absurd rfl (hrot r)
  | rdreg idx => exact absurd rfl (hrdreg idx)
  | _ => rfl

/-- LIFE UNINIT and FAILED fail the lifecycle check of READY alike. -/
theorem lifeFault_ready_of_ne (life : Life) (h : life ≠ .ready) : lifeFault .ready life = some .fNrdy := by
  cases life with
  | ready => exact absurd rfl h
  | uninit => rfl
  | failed => rfl

/-- Settles O20: the busy check comes first in every command that has one. -/
theorem busyRejectsAllButRdreg : Obligations.BusyRejectsAllButRdreg := by
  intro s i hb hi
  obtain ⟨k, hk⟩ := exec_eq_accept i s hi
  rw [hk, accept_busy _ s k hb]
  rfl

/-- Settles O22: the commands named need READY, and the lifecycle check raises F_NRDY without it. -/
theorem notReadyFaults : Obligations.NotReadyFaults := by
  intro s i hb hl hnop hinit hrot hrdreg
  obtain ⟨k, hk⟩ := exec_eq_accept i s hrdreg
  have hfault : lifeFault (lifeNeed i) s.life = some .fNrdy := by
    rw [lifeNeed_eq_ready i hnop hinit hrot hrdreg, lifeFault_ready_of_ne s.life hl]
  rw [hk, accept_fault _ s k .fNrdy hb hfault]
  rfl

/-- Settles O24: both commands check the address against FBSIZE before they touch the framebuffer. -/
theorem rawAddressBeyondFbFaults : Obligations.RawAddressBeyondFbFaults := by
  intro s addr byte hb hr haddr
  rw [exec_fbrd, exec_fbwr, accept_ready s _ hb hr, accept_ready s _ hb hr, if_pos haddr, if_pos haddr]
  exact ⟨rfl, rfl⟩

/-! How a command is answered (60_exceptions.md R271, R275). -/

/-- The code is one of 0x01 to 0x06, those of the six faults (60_exceptions.md R271). -/
abbrev InFaultRange (c : Code) : Prop := 1 ≤ (codeByte c).toNat ∧ (codeByte c).toNat ≤ 6

/-- How a command that starts in `s` is answered: a fault raised on `s` itself, a response whose code is no fault's, or,
as a FLUSH that starts to run, not yet. Only the fault touches the sticky bits. -/
inductive CommandAnswer (s : State) : State → Prop where
  | fault (f : StickyBit) : CommandAnswer s (raiseFault f s)
  | response (c : Code) (v : Half) (u : State) (hc : ¬ InFaultRange c) (hk : u.sticky = s.sticky) :
      CommandAnswer s (respond c v u)
  | silent (t : State) (he : t.events = s.events) (hk : t.sticky = s.sticky) : CommandAnswer s t

@[simp] theorem signalReset_sticky (rst : Bool) (s : State) : (signalReset rst s).sticky = s.sticky := by
  rw [signalReset_eq]

/-- Each change that a command can make is one of the three answers. -/
theorem answer_of_change (i : Instr) (s t : State) (h : CommandChange i s t) : CommandAnswer s t := by
  cases h with
  | faults _ _ f => exact .fault f
  | responds _ _ v => exact .response .ok v s (by decide) rfl
  | rotates => exact .response .ok 0 _ (by decide) rfl
  | initFailsAlloc => exact .response .errAlloc 0 _ (by decide) rfl
  | initFailsBus => exact .response .errBusInit 0 _ (by decide) rfl
  | initialises rst => exact .response .ok 0 _ (by decide) (signalReset_sticky rst (initialised s))
  | setsPixel => exact .response .ok 0 _ (by decide) rfl
  | clears => exact .response .ok 0 _ (by decide) rfl
  | marks => exact .response .ok 0 _ (by decide) rfl
  | stores => exact .response .ok 0 _ (by decide) rfl
  | flushesNothing => exact .response .ok 0 _ (by decide) rfl
  | startsFlush => exact .silent _ rfl rfl

/-- An illegal word is answered with a fault, every other word as its command is. -/
theorem answer_of_acceptWord (w : CommandWord) (s t : State) (h : acceptWord w s = .next t) : CommandAnswer s t := by
  cases hd : decode w with
  | error e =>
    rw [acceptWord_of_error w s e hd] at h
    cases h
    exact .fault .fIll
  | ok i =>
    simp only [acceptWord, hd] at h
    exact answer_of_change i s t (change_of_exec i s t h)

/-- Bits 23 to 0 of a response word are DATA, extended with zeros (30_encoding.md R110). -/
theorem responseWord_low (c : Code) (v : Half) : (responseWord c v).extractLsb' 0 24 = v.setWidth 24 := by
  have hv := v.isLt
  apply BitVec.eq_of_toNat_eq
  simp only [BitVec.extractLsb'_toNat, responseWord_toNat, BitVec.toNat_setWidth]
  omega

/-- The last response that `respond` leaves on the record is its own, whatever stands before it. -/
theorem response_of_respond (c : Code) (v : Half) (s : State) (es : List Event) (r : ResponseWord)
    (h : (respond c v s).events = es ++ [.response r]) : r = responseWord c v := by
  rw [respond_events] at h
  have hlast := (List.append_inj' h rfl).2
  simpa using hlast.symm

/-- Settles O18: of the three answers only the fault has a code in 0x01 to 0x06, and it is raised on the state the
command met. -/
theorem faultsArePrecise : Obligations.FaultsArePrecise := by
  intro w s t r h hevents hlo hhi
  cases answer_of_acceptWord w s t h with
  | fault f =>
    obtain rfl := response_of_respond _ _ _ _ r hevents
    exact ⟨f, rfl, responseWord_code (faultCode f) 0, responseWord_low (faultCode f) 0⟩
  | response c v u hc =>
    obtain rfl := response_of_respond c v u _ r hevents
    rw [responseWord_code] at hlo hhi
    exact absurd ⟨hlo, hhi⟩ hc
  | silent _ he => simp [he] at hevents

/-! The sticky bits (60_exceptions.md R275, R287). -/

/-- Raising a fault sets its own sticky bit and leaves the other five. -/
theorem stickyBit_setSticky (f g : StickyBit) (k : Sticky) :
    stickyBit f (setSticky g k) = (decide (f = g) || stickyBit f k) := by
  cases g <;> cases f <;> rfl

/-- A bit that is set before a command is set after its answer. -/
theorem stickyBit_of_answer (f : StickyBit) (s t : State) (h : CommandAnswer s t) (hf : stickyBit f s.sticky = true) :
    stickyBit f t.sticky = true := by
  cases h with
  | fault g => rw [raiseFault_sticky, stickyBit_setSticky, hf, Bool.or_true]
  | response c v u _ hk => rw [respond_sticky, hk, hf]
  | silent _ _ hk => rw [hk, hf]

/-- A running FLUSH raises no fault: its failure is LFAIL, no sticky bit (43_flush.md R221). -/
theorem sticky_of_flushChange (ok : Bool) (s t : State) (h : FlushChange ok s t) : t.sticky = s.sticky := by
  cases h with
  | selects => rfl
  | sends => rfl
  | aborts => rfl
  | completes => rfl

/-- Settles O15: of the changes that a step can make, a fault only adds a bit and reset alone takes bits away. -/
theorem stickyBitsStayUntilReset : Obligations.StickyBitsStayUntilReset := by
  intro s t f h hf
  cases change_of_step s t h with
  | illegal => exact .inl (stickyBit_of_answer f (popInput s) _ (.fault .fIll) hf)
  | command _ w rest i hi hd hc => exact .inl (stickyBit_of_answer f (popInput s) t (answer_of_change i _ t hc) hf)
  | waits => exact .inl hf
  | flush _ ok hb hc =>
    rw [sticky_of_flushChange ok _ t hc]
    exact .inl hf
  | transport => exact .inl hf
  | environment => exact .inl hf
  | reset rest hi => exact .inr ⟨rest, hi⟩

end Sys2Proof.Machine
end

section
/-! The working registers of a running FLUSH (10_state.md R44): the accepting step sets them up within their ranges, and
every transaction answered ok keeps them there. -/

namespace Sys2Proof.Machine

/-- The column range of a non-empty rectangle holds a column (43_flush.md R213). -/
theorem startColumn_le_endColumn (b : Build) (d : Dirty) (hd : DirtyOk b d) (he : dirtyEmpty d = false) :
    startColumn b d ≤ endColumn b d := by
  obtain ⟨hx, -⟩ := bounds_of_nonempty b d hd he
  unfold startColumn endColumn
  rw [clampColumn_of_inRange b _ (by omega), clampColumn_of_inRange b _ (by omega)]
  omega

theorem nextPhase_eq_done_iff (fp lp : BitVec 5) : nextPhase fp lp = .done ↔ lp.toNat ≤ fp.toNat := by
  unfold nextPhase
  split <;> simp <;> omega

theorem nextPhase_ne_data (fp lp : BitVec 5) : nextPhase fp lp ≠ .data := by
  unfold nextPhase
  split <;> simp

/-- FP and LP after the accepting step are the page range of the rectangle. -/
theorem flushSetup_pageRange (s : State) (hd : DirtyOk s.build s.dirty) (he : dirtyEmpty s.dirty = false) :
    (flushSetup s).fp.toNat = firstPage s.dirty ∧ (flushSetup s).lp.toNat = lastPage s.dirty := by
  obtain ⟨hfp, hlp⟩ := flushSetup_pages s hd he
  unfold firstPage lastPage
  omega

/-- The set-up of a non-empty rectangle (43_flush.md R213). -/
theorem workingOk_flushSetup (s : State) (hd : DirtyOk s.build s.dirty) (he : dirtyEmpty s.dirty = false)
    (hm : 4 ≤ s.xport.maxbuf.toNat) : WorkingOk s.build s.dirty (flushSetup s) := by
  have hcmax := flushSetup_cmax s hm
  have hmaxbuf := s.xport.maxbuf.isLt
  have hrange := pageRange_of_nonempty s.build s.dirty hd he
  obtain ⟨hfp, hlp⟩ := flushSetup_pages s hd he
  obtain ⟨hfirst, hlast⟩ := flushSetup_pageRange s hd he
  have hcs := clampColumn_toNat s.build s.dirty.dx1
  have hce := clampColumn_toNat s.build s.dirty.dx2
  have hphase := nextPhase_eq_done_iff (flushSetup s).fp (flushSetup s).lp
  refine ⟨he, by omega, ⟨hlast, by omega, by omega⟩, ⟨?_, ?_⟩, hphase.trans (by omega),
    fun h => absurd h (nextPhase_ne_data _ _)⟩
  · exact Int.ofNat_inj.1 (hcs.trans (Int.toNat_of_nonneg (clampColumn_range _ _).1).symm)
  · exact Int.ofNat_inj.1 (hce.trans (Int.toNat_of_nonneg (clampColumn_range _ _).1).symm)

/-- PTR and REM of a page (43_flush.md R217) fit their registers. -/
theorem pageStart_toNat (b : Build) (d : Dirty) (w : Working) (hd : DirtyOk b d) (hw : WorkingOk b d w)
    (hp : w.phase ≠ .done) :
    w.cs.toNat ≤ w.ce.toNat ∧
      (BitVec.ofNat 13 (w.fp.toNat * b.w + w.cs.toNat)).toNat = w.fp.toNat * b.w + w.cs.toNat ∧
      (BitVec.ofNat 9 (w.ce.toNat + 1 - w.cs.toNat)).toNat = w.ce.toNat + 1 - w.cs.toNat := by
  obtain ⟨hlt, hle⟩ := page_lt_of_running b d w hd hw hp
  obtain ⟨he, -, -, ⟨hcs, hce⟩, -, -⟩ := hw
  have hcols : w.cs.toNat ≤ w.ce.toNat := hcs ▸ hce ▸ startColumn_le_endColumn b d hd he
  have hend : w.ce.toNat < b.w := hce ▸ endColumn_lt b d
  have haddr := page_column_lt b w.fp.toNat w.cs.toNat (by omega) (by omega)
  have hsize := fbSize_le b
  have hbyte := w.ce.isLt
  simp only [BitVec.toNat_ofNat]
  omega

/-- A page-select answered ok (43_flush.md R217). -/
theorem workingOk_afterSelect (b : Build) (d : Dirty) (w : Working) (hd : DirtyOk b d) (hw : WorkingOk b d w)
    (hp : w.phase = .select) : WorkingOk b d (afterSelect b w) := by
  have hnd : w.phase ≠ .done := by simp [hp]
  obtain ⟨hcols, hptr, hrem⟩ := pageStart_toNat b d w hd hw hnd
  obtain ⟨hlt, -⟩ := page_lt_of_running b d w hd hw hnd
  obtain ⟨he, hcmax, hpages, hcolumns, -, -⟩ := hw
  rw [afterSelect_eq b w hcols]
  refine ⟨he, hcmax, hpages, hcolumns, ⟨fun h => Phase.noConfusion h, fun h => absurd h (Nat.ne_of_lt hlt)⟩, fun _ => ?_⟩
  simp only [DataPhaseOk, hptr, hrem]
  omega

/-- A data chunk answered ok (43_flush.md R218): the page has bytes left, or the next page follows. -/
theorem workingOk_afterChunk (b : Build) (d : Dirty) (w : Working) (hd : DirtyOk b d) (hw : WorkingOk b d w)
    (hp : w.phase = .data) : WorkingOk b d (afterChunk (chunkSize w) w) := by
  have hpage := page_lt_of_running b d w hd hw (by simp [hp])
  have hle := chunkSize_le_rem w
  have hptr := add_chunk_toNat b w (chunkSize w) (chunk_inFramebuffer b d w hd hw hp)
  have hrem := sub_chunk_toNat w (chunkSize w) hle
  have hfp := next_page_toNat b w hpage
  obtain ⟨he, hcmax, ⟨hlp, hfirst, -⟩, hcolumns, hdone, hdata⟩ := hw
  obtain ⟨-, hstart, hend⟩ := hdata hp
  rcases Nat.lt_or_eq_of_le hle with hmore | hlast
  · rw [afterChunk_more w _ hmore]
    refine ⟨he, hcmax, ⟨hlp, hfirst, Nat.le_of_lt hpage.1⟩, hcolumns, hdone, fun _ => ?_⟩
    simp only [DataPhaseOk, hptr, hrem]
    omega
  · rw [afterChunk_last w _ hlast]
    refine ⟨he, hcmax, ⟨hlp, ?_, ?_⟩, hcolumns, (nextPhase_eq_done_iff _ _).trans ?_,
      fun h => absurd h (nextPhase_ne_data _ _)⟩
    all_goals simp only [hfp]; omega

end Sys2Proof.Machine
end

section
/-! The invariant of the block (10_state.md R33, R34, R37, R39, R44), one part after the other: what every change that a
command, a step of the flush state machine or the reset input makes does to it. -/

namespace Sys2Proof.Machine

/-! The build (10_state.md R30). -/

@[simp] theorem signalReset_build (rst : Bool) (s : State) : (signalReset rst s).build = s.build := by
  rw [signalReset_eq]

theorem build_of_commandChange (i : Instr) (s t : State) (h : CommandChange i s t) : t.build = s.build := by
  cases h with
  | initialises rst => exact signalReset_build rst (initialised s)
  | _ => rfl

theorem build_of_flushChange (ok : Bool) (s t : State) (h : FlushChange ok s t) : t.build = s.build := by
  cases h <;> rfl

/-- Settles O14: neither a command, nor a step of the flush state machine, nor reset writes the build. -/
theorem buildNeverChanges : Obligations.BuildNeverChanges := by
  intro s t h
  cases change_of_step s t h with
  | command _ w rest i hi hd hc => exact build_of_commandChange i (popInput s) t hc
  | flush _ ok hb hc => exact build_of_flushChange ok (popInput s) t hc
  | _ => rfl

/-! The rectangle (10_state.md R39). -/

theorem dirtyOk_of_commandChange (i : Instr) (s t : State) (h : CommandChange i s t) (hd : DirtyOk s.build s.dirty) :
    DirtyOk t.build t.dirty := by
  cases h with
  | initialises rst =>
    rw [signalReset_eq]
    exact dirtyOk_sentinel s.build
  | setsPixel _ mode x y _ hb hl hi hxy =>
    have hp := transform_inPhysicalRange s.build s.rot x y hxy
    exact dirtyOk_of_widened s.build _ _ s.dirty _ hp hd (markDirty_widens s.build _ _ s.dirty hp)
  | clears => exact dirtyOk_full s.build
  | marks x y _ hb hl hp => exact dirtyOk_of_widened s.build x y s.dirty _ hp hd (markDirty_widens s.build x y s.dirty hp)
  | _ => exact hd

theorem dirtyOk_of_flushChange (ok : Bool) (s t : State) (h : FlushChange ok s t) (hd : DirtyOk s.build s.dirty) :
    DirtyOk t.build t.dirty := by
  cases h with
  | completes => exact dirtyOk_sentinel s.build
  | _ => exact hd

/-- Settles O13: the rectangle is widened by points of the buffer, filled, or put back to the sentinel. -/
theorem dirtyInvariantKept : Obligations.DirtyInvariantKept := by
  intro s t hd h
  cases change_of_step s t h with
  | command _ w rest i hi hdec hc => exact dirtyOk_of_commandChange i _ t hc hd
  | flush _ ok hb hc => exact dirtyOk_of_flushChange ok _ t hc hd
  | reset => exact dirtyOk_sentinel s.build
  | _ => exact hd

/-! The framebuffer (20_memory.md R70). -/

theorem memoryOk_write (b : Build) (m : Memory) (a : Nat) (v : Byte) (hm : MemoryOk b m) (ha : a < fbSize b) :
    MemoryOk b (m.write a v) :=
  ⟨Memory.wf_write m a v hm.1, Memory.range_write m a _ v hm.2 ha⟩

theorem memoryOk_zeroBelow (b : Build) (m : Memory) (n : Nat) (hm : MemoryOk b m) : MemoryOk b (m.zeroBelow n) :=
  ⟨Memory.wf_zeroBelow m n hm.1, fun c hc => hm.2 c (List.mem_of_mem_filter hc)⟩

theorem memoryOk_of_commandChange (i : Instr) (s t : State) (h : CommandChange i s t) (hm : MemoryOk s.build s.fb) :
    MemoryOk t.build t.fb := by
  cases h with
  | initialises rst =>
    rw [signalReset_eq]
    exact memoryOk_zeroBelow s.build s.fb _ hm
  | setsPixel _ mode x y _ hb hl hi hxy =>
    exact memoryOk_write s.build s.fb _ _ hm (pixelAddr_lt s.build _ _ (transform_inPhysicalRange s.build s.rot x y hxy))
  | clears => exact memoryOk_zeroBelow s.build s.fb _ hm
  | stores addr byte _ hb hl ha => exact memoryOk_write s.build s.fb addr byte hm ha
  | _ => exact hm

/-! The lifecycle (10_state.md R33, R34), and that nothing is dirty and no FLUSH runs before INIT. -/

theorem lifecycleOk_of_commandChange (i : Instr) (s t : State) (h : CommandChange i s t) (hl : LifecycleOk s) :
    LifecycleOk t := by
  cases h with
  | initFailsAlloc => simp [LifecycleOk]
  | initFailsBus => simp [LifecycleOk]
  | initialises rst =>
    rw [signalReset_eq]
    simp [LifecycleOk]
  | _ => exact hl

theorem idleUnlessReady_of_commandChange (i : Instr) (s t : State) (h : CommandChange i s t)
    (hidle : IdleUnlessReady s) : IdleUnlessReady t := by
  cases h with
  | initFailsAlloc _ _ hb hu => exact fun _ => hidle (by simp [hu])
  | initFailsBus _ _ hb hu => exact fun _ => hidle (by simp [hu])
  | initialises rst =>
    rw [signalReset_eq]
    exact fun hn => absurd rfl hn
  | setsPixel _ mode x y _ hb hr => exact fun hn => absurd hr hn
  | clears _ hb hr => exact fun hn => absurd hr hn
  | marks x y _ hb hr => exact fun hn => absurd hr hn
  | startsFlush _ hb hr => exact fun hn => absurd hr hn
  | _ => exact hidle

/-! The working registers (10_state.md R44): only a FLUSH starts one, and every other change but a fault and a response
needs BUSY = 0. -/

theorem workingOk_of_commandChange (i : Instr) (s t : State) (h : CommandChange i s t) (hd : DirtyOk s.build s.dirty)
    (hw : s.busy = true → WorkingOk s.build s.dirty s.working) (hbt : t.busy = true) :
    WorkingOk t.build t.dirty t.working := by
  cases h
  case faults => exact hw hbt
  case responds => exact hw hbt
  case startsFlush hb hr he hx hm => exact workingOk_flushSetup s hd he hm
  case initialises rst hb hu =>
    rw [signalReset_eq] at hbt
    exact absurd (hb.symm.trans hbt) Bool.false_ne_true
  all_goals exact absurd (‹s.busy = false›.symm.trans hbt) Bool.false_ne_true

/-- Every command keeps the invariant. -/
theorem inv_of_commandChange (i : Instr) (s t : State) (h : CommandChange i s t) (hinv : Inv s) : Inv t := by
  obtain ⟨hd, hm, hl, hidle, hw⟩ := hinv
  exact ⟨dirtyOk_of_commandChange i s t h hd, memoryOk_of_commandChange i s t h hm,
    lifecycleOk_of_commandChange i s t h hl, idleUnlessReady_of_commandChange i s t h hidle,
    workingOk_of_commandChange i s t h hd hw⟩

/-- Every step of a running FLUSH keeps the invariant. -/
theorem inv_of_flushChange (ok : Bool) (s t : State) (h : FlushChange ok s t) (hb : s.busy = true) (hinv : Inv s) :
    Inv t := by
  obtain ⟨hd, hm, hl, hidle, hw⟩ := hinv
  have hready : s.life = .ready := by
    by_contra hn
    exact absurd ((hidle hn).2.symm.trans hb) Bool.false_ne_true
  cases h with
  | selects _ hp => exact ⟨hd, hm, hl, hidle, fun _ => workingOk_afterSelect s.build s.dirty s.working hd (hw hb) hp⟩
  | sends _ hp => exact ⟨hd, hm, hl, hidle, fun _ => workingOk_afterChunk s.build s.dirty s.working hd (hw hb) hp⟩
  | aborts => exact ⟨hd, hm, hl, fun hn => absurd hready hn, fun h => Bool.noConfusion h⟩
  | completes => exact ⟨dirtyOk_sentinel s.build, hm, hl, fun hn => absurd hready hn, fun h => Bool.noConfusion h⟩

/-- A block that has been reset meets the invariant: it is idle, with an empty framebuffer and the sentinel. -/
theorem inv_resetBlock (s : State) : Inv (resetBlock s) :=
  ⟨dirtyOk_sentinel s.build, ⟨⟨List.Pairwise.nil, by simp⟩, by simp⟩, by simp [LifecycleOk], fun _ => ⟨rfl, rfl⟩,
    fun h => Bool.noConfusion h⟩

/-- Settles O10: `State.reset` is what the reset input leaves of itself, up to the record. -/
theorem invariantAtReset : Obligations.InvariantAtReset := inv_resetBlock State.reset

/-- Settles O11, by the changes a step can make: a command, a step of a running FLUSH, reset, or an input that touches no
field of the invariant. -/
theorem invariantKeptByStep : Obligations.InvariantKeptByStep := by
  intro s t hinv h
  cases change_of_step s t h with
  | command _ w rest i hi hd hc => exact inv_of_commandChange i _ t hc hinv
  | flush _ ok hb hc => exact inv_of_flushChange ok _ t hc hb hinv
  | reset => exact inv_resetBlock (popInput s)
  | _ => exact hinv

/-! No step stops (log 13). -/

/-- A step of the flush state machine goes on, or its chunk is not in the framebuffer (log 13). -/
theorem flushStep_goesOn_or_stops (ok : Bool) (s : State) : GoesOn (flushStep ok s) ∨
    (s.working.phase = .data ∧ currentTransaction s = none) := by
  cases hp : s.working.phase with
  | done => exact .inl ⟨_, flushStep_done ok s hp⟩
  | select =>
    cases ok with
    | true => exact .inl ⟨_, flushStep_select s hp⟩
    | false => exact .inl ⟨_, flushStep_fail s _ (by simp [hp]) (currentTransaction_select s hp)⟩
  | data =>
    by_cases hr : s.working.ptr.toNat + chunkSize s.working ≤ fbSize s.build
    · cases ok with
      | true => exact .inl ⟨_, flushStep_data s hp hr⟩
      | false => exact .inl ⟨_, flushStep_fail s _ (by simp [hp]) (currentTransaction_data s hp hr)⟩
    · exact .inr ⟨rfl, by simp [currentTransaction, hp, memReadRange, hr]⟩

/-- A step of a FLUSH that runs within its ranges goes on, whatever XPORT answers. -/
theorem goesOn_flushStep (ok : Bool) (s : State) (hd : DirtyOk s.build s.dirty)
    (hw : WorkingOk s.build s.dirty s.working) : GoesOn (flushStep ok s) := by
  refine (flushStep_goesOn_or_stops ok s).resolve_right fun ⟨hp, hx⟩ => ?_
  rw [currentTransaction_data s hp (chunk_inFramebuffer s.build s.dirty s.working hd hw hp)] at hx
  cases hx

theorem goesOn_seqAlone (s : State) : GoesOn (seqAlone s) := by
  by_cases h : s.busy = true ∧ s.working.phase = .done
  · exact ⟨_, seqAlone_done s h.1 h.2⟩
  · exact ⟨_, seqAlone_waits s fun hb hp => h ⟨hb, hp⟩⟩

theorem goesOn_acceptWord (w : CommandWord) (s : State) : GoesOn (acceptWord w s) := by
  cases hd : decode w with
  | error e => exact ⟨_, acceptWord_of_error w s e hd⟩
  | ok i =>
    obtain ⟨t, ht, -⟩ := exec_change i s
    exact ⟨t, by simpa only [acceptWord, hd] using ht⟩

theorem goesOn_takeAnswer (ok : Bool) (s : State) (hinv : Inv s) : GoesOn (takeAnswer ok s) := by
  obtain ⟨hd, -, -, -, hw⟩ := hinv
  by_cases h : s.busy = true ∧ s.working.phase ≠ .done
  · rw [takeAnswer_awaited ok s h.1 h.2]
    exact goesOn_flushStep ok s hd (hw h.1)
  · rw [takeAnswer_unawaited ok s fun hb => by_contra fun hp => h ⟨hb, hp⟩]
    exact goesOn_seqAlone s

/-- Settles O12: of the inputs only an answer can need a framebuffer access, and the invariant keeps it within FBSIZE. -/
theorem invariantStatesNeverStop : Obligations.InvariantStatesNeverStop := by
  intro s hinv
  cases hin : s.inputs with
  | nil =>
    rw [step_of_nil s hin]
    exact goesOn_seqAlone s
  | cons i rest =>
    rw [step_of_cons s i rest hin]
    cases i with
    | command w => exact goesOn_acceptWord w (popInput s)
    | answer ok => exact goesOn_takeAnswer ok (popInput s) hinv
    | quiet => exact goesOn_seqAlone (popInput s)
    | transport ready maxbuf => exact ⟨_, rfl⟩
    | environment allocOk busOk => exact ⟨_, rfl⟩
    | reset => exact ⟨_, rfl⟩

/-- Settles O59: the ranges follow from the rectangle that the registers were set up from. -/
theorem runningFlushRegistersInRange : Obligations.RunningFlushRegistersInRange := by
  intro s hinv hb
  obtain ⟨hd, -, -, -, hwork⟩ := hinv
  have hw := hwork hb
  have hrem := remaining_inFramebuffer s.build s.dirty s.working hd hw
  obtain ⟨he, hcmax, ⟨hlp, hfirst, hle⟩, ⟨hcs, hce⟩, -, hdata⟩ := hw
  have hpages := lastPage_le_pages s.build s.dirty hd he
  have hrange := pageRange_of_nonempty s.build s.dirty hd he
  have hpositive : 1 ≤ lastPage s.dirty := by
    unfold lastPage
    omega
  have hcols := startColumn_le_endColumn s.build s.dirty hd he
  have hend := endColumn_lt s.build s.dirty
  refine ⟨hcmax, ⟨hfirst, hle⟩, by omega, by omega, fun hp => ⟨hrem hp, ?_⟩⟩
  obtain ⟨-, hstart, hbytes⟩ := hdata hp
  omega

end Sys2Proof.Machine
end

section
/-! The encoder and the decoder are inverse (30_encoding.md R101 to R105), and the match and mask table of R106 has, for
each word, at most the row of what it decodes to (R116). -/

namespace Sys2Proof.Machine

theorem whenZero_ok_iff (b : Bool) (i j : Instr) : whenZero b i = .ok j ↔ b = true ∧ i = j := by
  cases b <;> simp [whenZero]

/-- The data byte of FBWR, DATA8, is Y[7:0], and Y[15:8] is 0 (30_encoding.md R103). -/
theorem extractLsb'_setWidth_byte (v : Byte) :
    (v.setWidth 16).extractLsb' 8 8 = 0 ∧ (v.setWidth 16).extractLsb' 0 8 = v := by
  have hv := v.isLt
  constructor <;> apply BitVec.eq_of_toNat_eq <;> simp [BitVec.extractLsb'_toNat, Nat.shiftRight_eq_div_pow] <;> omega

/-- The fields of an instruction whose operands fit decode to it (30_encoding.md R102 to R105). -/
theorem decodeFields_encodeFields (i : Instr) (h : WellFormed i) : decodeFields (encodeFields i) = .ok i := by
  cases i with
  | nop => rfl
  | init rst => cases rst <;> rfl
  | rot r => cases r <;> rfl
  | clear => rfl
  | flush => rfl
  | setpixClear x y | setpixSet x y | setpixInvert x y =>
    obtain ⟨hx, hy⟩ := Bool.and_eq_true_iff.1 h
    simp [decodeFields, encodeFields, setpixOfMode, sext16_coordField, hx, hy]
  | getpix x y | mark x y =>
    obtain ⟨hx, hy⟩ := Bool.and_eq_true_iff.1 h
    simp [decodeFields, encodeFields, whenZero_ok_iff, sext16_coordField, hx, hy]
  | fbrd addr =>
    simp [decodeFields, encodeFields, whenZero_ok_iff, zext16_addrField addr h]
  | fbwr addr byte =>
    obtain ⟨hhigh, hlow⟩ := extractLsb'_setWidth_byte byte
    simp [decodeFields, encodeFields, whenZero_ok_iff, zext16_addrField addr h, hhigh, hlow]
  | rdreg idx =>
    simp [decodeFields, encodeFields, whenZero_ok_iff, zext16_addrField idx h]

/-- Settles O1: the word's fields are the instruction's, so it is `decodeFields_encodeFields`. -/
theorem decodeInvertsEncode : Obligations.DecodeInvertsEncode := by
  intro i h
  rw [decode, encode, fieldsOf_wordOf]
  exact decodeFields_encodeFields i h

/-- A value whose bits from `k` up are zero is its `k` lowest bits. -/
theorem setWidth_extractLsb'_low (n k : Nat) (v : BitVec n) (h : v.extractLsb' k (n - k) = 0) :
    (v.extractLsb' 0 k).setWidth n = v := by
  apply BitVec.eq_of_getLsbD_eq
  intro i hi
  by_cases hk : i < k
  · simp [hi, hk]
  · have hbit : (v.extractLsb' k (n - k)).getLsbD (i - k) = false := by rw [h]; simp
    have hv : v.getLsbD i = false := by simpa [show i - k < n - k by omega, show k + (i - k) = i by omega] using hbit
    rw [hv, BitVec.getLsbD_setWidth, BitVec.getLsbD_extractLsb']
    simp [hk]

/-- SUB of INIT is `rst` (30_encoding.md R104). -/
theorem setWidth_ofBool_sub (sub : BitVec 4) (h : sub.extractLsb' 1 3 = 0) :
    (BitVec.ofBool (sub.getLsbD 0)).setWidth 4 = sub := by
  revert sub; decide

/-- SETPIX accepts a mode below 3, each its own instruction (30_encoding.md R105, R114). -/
theorem encodeFields_of_setpixOfMode (sub : BitVec 4) (x y : Half) (i : Instr) (hsub : sub.extractLsb' 2 2 = 0)
    (h : setpixOfMode (sub.extractLsb' 0 2) (sext16 x) (sext16 y) = .ok i) :
    WellFormed i ∧ encodeFields i = ⟨3, sub, 0, 0, x, y⟩ := by
  have hlow := setWidth_extractLsb'_low 4 2 sub hsub
  unfold setpixOfMode at h
  split_ifs at h with h0 h1 h2
  all_goals
    cases h
    simp only [*] at hlow
    simp [WellFormed, Instr.fits, encodeFields, coordFits_sext16, coordField_sext16, ← hlow]

/-- Fields that decode are those of the instruction, whose operands fit: one case for each opcode, by its format. -/
theorem encodeFields_of_decodeFields (f : CommandFields) (i : Instr) (h : decodeFields f = .ok i) :
    WellFormed i ∧ encodeFields i = f := by
  obtain ⟨op, sub, rsv, addr, x, y⟩ := f
  simp only [decodeFields] at h
  split at h
  case h_4 hop =>
    obtain rfl : op = 3 := BitVec.eq_of_toNat_eq hop
    split_ifs at h with hz
    simp only [Bool.and_eq_true, beq_iff_eq] at hz
    obtain ⟨⟨hsub, rfl⟩, rfl⟩ := hz
    exact encodeFields_of_setpixOfMode sub x y i hsub h
  case h_12 => cases h
  all_goals
    rename_i hop
    obtain ⟨hz, rfl⟩ := (whenZero_ok_iff _ _ _).1 h
    simp only [Bool.and_eq_true, beq_iff_eq] at hz
  case h_1 =>
    obtain rfl : op = 0 := BitVec.eq_of_toNat_eq hop
    obtain ⟨⟨⟨⟨rfl, rfl⟩, rfl⟩, rfl⟩, rfl⟩ := hz
    exact ⟨rfl, rfl⟩
  case h_2 =>
    obtain rfl : op = 1 := BitVec.eq_of_toNat_eq hop
    obtain ⟨⟨⟨⟨hsub, rfl⟩, rfl⟩, rfl⟩, rfl⟩ := hz
    exact ⟨rfl, by simp only [encodeFields, setWidth_ofBool_sub sub hsub]⟩
  case h_3 =>
    obtain rfl : op = 2 := BitVec.eq_of_toNat_eq hop
    obtain ⟨⟨⟨⟨hsub, rfl⟩, rfl⟩, rfl⟩, rfl⟩ := hz
    exact ⟨rfl, by simp [encodeFields, rotationCode_rotationOfCode, setWidth_extractLsb'_low 4 2 sub hsub]⟩
  case h_5 =>
    obtain rfl : op = 4 := BitVec.eq_of_toNat_eq hop
    obtain ⟨⟨rfl, rfl⟩, rfl⟩ := hz
    simp [WellFormed, Instr.fits, encodeFields, coordFits_sext16, coordField_sext16]
  case h_6 =>
    obtain rfl : op = 5 := BitVec.eq_of_toNat_eq hop
    obtain ⟨⟨⟨⟨rfl, rfl⟩, rfl⟩, rfl⟩, rfl⟩ := hz
    exact ⟨rfl, rfl⟩
  case h_7 =>
    obtain rfl : op = 6 := BitVec.eq_of_toNat_eq hop
    obtain ⟨⟨rfl, rfl⟩, rfl⟩ := hz
    simp [WellFormed, Instr.fits, encodeFields, coordFits_sext16, coordField_sext16]
  case h_8 =>
    obtain rfl : op = 7 := BitVec.eq_of_toNat_eq hop
    obtain ⟨⟨⟨⟨rfl, rfl⟩, rfl⟩, rfl⟩, rfl⟩ := hz
    exact ⟨rfl, rfl⟩
  case h_9 =>
    obtain rfl : op = 8 := BitVec.eq_of_toNat_eq hop
    obtain ⟨⟨⟨rfl, rfl⟩, rfl⟩, rfl⟩ := hz
    simp [WellFormed, Instr.fits, encodeFields, addrFits_zext16, addrField_zext16]
  case h_10 =>
    obtain rfl : op = 9 := BitVec.eq_of_toNat_eq hop
    obtain ⟨⟨⟨rfl, rfl⟩, rfl⟩, hy⟩ := hz
    simp [WellFormed, Instr.fits, encodeFields, addrFits_zext16, addrField_zext16, setWidth_extractLsb'_low 16 8 y hy]
  case h_11 =>
    obtain rfl : op = 10 := BitVec.eq_of_toNat_eq hop
    obtain ⟨⟨⟨rfl, rfl⟩, rfl⟩, rfl⟩ := hz
    simp [WellFormed, Instr.fits, encodeFields, addrFits_zext16, addrField_zext16]

/-- Settles O2: the word is the word of its fields, and they are the instruction's. -/
theorem encodeInvertsDecode : Obligations.EncodeInvertsDecode := by
  intro w i h
  obtain ⟨hfits, hfields⟩ := encodeFields_of_decodeFields (fieldsOf w) i h
  exact ⟨hfits, by rw [encode, hfields, wordOf_fieldsOf]⟩

/-! The match and mask table. -/

theorem wordOf_and (f m : CommandFields) : wordOf f &&& wordOf m =
    wordOf ⟨f.op &&& m.op, f.sub &&& m.sub, f.rsv &&& m.rsv, f.addr &&& m.addr, f.x &&& m.x, f.y &&& m.y⟩ := by
  unfold wordOf
  repeat rw [BitVec.and_append]

/-- The fields of the column "mask" of R106. -/
def maskFields : OpcodeRow → CommandFields
  | .nop | .clear | .flush => ⟨0xF, 0xF, 0xFF, 0xFFFF, 0xFFFF, 0xFFFF⟩
  | .init => ⟨0xF, 0xE, 0xFF, 0xFFFF, 0xFFFF, 0xFFFF⟩
  | .rot => ⟨0xF, 0xC, 0xFF, 0xFFFF, 0xFFFF, 0xFFFF⟩
  | .setpixClear | .setpixSet | .setpixInvert | .getpix | .mark => ⟨0xF, 0xF, 0xFF, 0xFFFF, 0, 0⟩
  | .fbrd | .rdreg => ⟨0xF, 0xF, 0xFF, 0, 0xFFFF, 0xFFFF⟩
  | .fbwr => ⟨0xF, 0xF, 0xFF, 0, 0xFFFF, 0xFF00⟩

theorem wordOf_maskFields (r : OpcodeRow) : wordOf (maskFields r) = r.maskBits := by cases r <;> rfl

/-- The fields OP and SUB of the column "match" of R106; its other fields are 0. -/
def matchFields : OpcodeRow → CommandFields
  | .nop => ⟨0, 0, 0, 0, 0, 0⟩
  | .init => ⟨1, 0, 0, 0, 0, 0⟩
  | .rot => ⟨2, 0, 0, 0, 0, 0⟩
  | .setpixClear => ⟨3, 0, 0, 0, 0, 0⟩
  | .setpixSet => ⟨3, 1, 0, 0, 0, 0⟩
  | .setpixInvert => ⟨3, 2, 0, 0, 0, 0⟩
  | .getpix => ⟨4, 0, 0, 0, 0, 0⟩
  | .clear => ⟨5, 0, 0, 0, 0, 0⟩
  | .mark => ⟨6, 0, 0, 0, 0, 0⟩
  | .flush => ⟨7, 0, 0, 0, 0, 0⟩
  | .fbrd => ⟨8, 0, 0, 0, 0, 0⟩
  | .fbwr => ⟨9, 0, 0, 0, 0, 0⟩
  | .rdreg => ⟨10, 0, 0, 0, 0, 0⟩

theorem wordOf_matchFields (r : OpcodeRow) : wordOf (matchFields r) = r.matchBits := by cases r <;> rfl

/-- A row matches a word when it matches each of its fields. -/
theorem matches_iff_fields (r : OpcodeRow) (f : CommandFields) : r.Matches (wordOf f) ↔
    f.op &&& (maskFields r).op = (matchFields r).op ∧ f.sub &&& (maskFields r).sub = (matchFields r).sub ∧
      f.rsv &&& (maskFields r).rsv = (matchFields r).rsv ∧ f.addr &&& (maskFields r).addr = (matchFields r).addr ∧
      f.x &&& (maskFields r).x = (matchFields r).x ∧ f.y &&& (maskFields r).y = (matchFields r).y := by
  have hinj := Function.LeftInverse.injective fieldsOf_wordOf
  rw [OpcodeRow.Matches, ← wordOf_maskFields, ← wordOf_matchFields, wordOf_and, hinj.eq_iff]
  exact ⟨fun h => by simp [← h], fun ⟨h1, h2, h3, h4, h5, h6⟩ => by rw [h1, h2, h3, h4, h5, h6]⟩

/-! A mask whose bits are all 1 leaves a field as it is. -/

theorem and_mask4 (v : BitVec 4) : v &&& 0xF = v := BitVec.and_allOnes
theorem and_mask8 (v : BitVec 8) : v &&& 0xFF = v := BitVec.and_allOnes
theorem and_mask16 (v : BitVec 16) : v &&& 0xFFFF = v := BitVec.and_allOnes

/-- A field is within its `k` lowest bits exactly when the mask of the bits above gives 0. -/
theorem and_highMask_eq_zero_iff (n k : Nat) (v m : BitVec n) (hm : m = BitVec.allOnes n <<< k) :
    v &&& m = 0 ↔ v.extractLsb' k (n - k) = 0 := by
  have hbit (i : Nat) : (v &&& m).getLsbD i = (decide (k ≤ i) && v.getLsbD i) := by
    by_cases hi : i < n
    · rw [hm, BitVec.getLsbD_and, BitVec.getLsbD_shiftLeft]
      by_cases hk : i < k
      · simp [hk]
      · simp [hi, hk, Nat.le_of_not_lt hk, show i - k < n by omega]
    · simp [BitVec.getLsbD_of_ge _ _ (Nat.le_of_not_lt hi)]
  constructor
  · intro h
    apply BitVec.eq_of_getLsbD_eq
    intro i hi
    have := hbit (k + i)
    rw [h] at this
    simpa [hi] using this.symm
  · intro h
    apply BitVec.eq_of_getLsbD_eq
    intro i hi
    rw [hbit i]
    by_cases hk : k ≤ i
    · have hv : (v.extractLsb' k (n - k)).getLsbD (i - k) = false := by rw [h]; simp
      have hlt : i - k < n - k := by omega
      have hv : v.getLsbD i = false := by simpa [hlt, Nat.add_sub_of_le hk] using hv
      simp [hv]
    · simp [hk]

/-- An instruction's word matches its own row. -/
theorem row_matches_encode (i : Instr) : i.row.Matches (encode i) := by
  rw [encode, matches_iff_fields]
  cases i with
  | init rst => cases rst <;> decide
  | rot r => cases r <;> decide
  | fbwr addr byte =>
    have hhigh := (and_highMask_eq_zero_iff 16 8 (byte.setWidth 16) 0xFF00 rfl).2 (extractLsb'_setWidth_byte byte).1
    simpa [Instr.row, maskFields, matchFields, encodeFields] using hhigh
  | _ => simp [Instr.row, maskFields, matchFields, encodeFields]

/-- A word that a row matches decodes to an instruction of that row. -/
theorem decode_of_matches (r : OpcodeRow) (w : CommandWord) (h : r.Matches w) : ∃ i, decode w = .ok i ∧ i.row = r := by
  unfold decode
  rw [← wordOf_fieldsOf w, matches_iff_fields] at h
  generalize fieldsOf w = f at h
  obtain ⟨hop, hsub, hrsv, haddr, hx, hy⟩ := h
  cases r <;> simp only [maskFields, matchFields, and_mask4, and_mask8, and_mask16] at hop hsub hrsv haddr hx hy
  case nop => exact ⟨.nop, by simp [decodeFields, whenZero_ok_iff, *], rfl⟩
  case init =>
    have hused := (and_highMask_eq_zero_iff 4 1 f.sub 0xE rfl).1 hsub
    exact ⟨.init (f.sub.getLsbD 0), by simp [decodeFields, whenZero_ok_iff, *], rfl⟩
  case rot =>
    have hused := (and_highMask_eq_zero_iff 4 2 f.sub 0xC rfl).1 hsub
    exact ⟨.rot (rotationOfCode (f.sub.extractLsb' 0 2)), by simp [decodeFields, whenZero_ok_iff, *], rfl⟩
  case setpixClear => exact ⟨.setpixClear (sext16 f.x) (sext16 f.y), by simp [decodeFields, setpixOfMode, *], rfl⟩
  case setpixSet => exact ⟨.setpixSet (sext16 f.x) (sext16 f.y), by simp [decodeFields, setpixOfMode, *], rfl⟩
  case setpixInvert => exact ⟨.setpixInvert (sext16 f.x) (sext16 f.y), by simp [decodeFields, setpixOfMode, *], rfl⟩
  case getpix => exact ⟨.getpix (sext16 f.x) (sext16 f.y), by simp [decodeFields, whenZero_ok_iff, *], rfl⟩
  case clear => exact ⟨.clear, by simp [decodeFields, whenZero_ok_iff, *], rfl⟩
  case mark => exact ⟨.mark (sext16 f.x) (sext16 f.y), by simp [decodeFields, whenZero_ok_iff, *], rfl⟩
  case flush => exact ⟨.flush, by simp [decodeFields, whenZero_ok_iff, *], rfl⟩
  case fbrd => exact ⟨.fbrd (zext16 f.addr), by simp [decodeFields, whenZero_ok_iff, *], rfl⟩
  case fbwr =>
    have hused := (and_highMask_eq_zero_iff 16 8 f.y 0xFF00 rfl).1 hy
    exact ⟨.fbwr (zext16 f.addr) (f.y.extractLsb' 0 8), by simp [decodeFields, whenZero_ok_iff, *], rfl⟩
  case rdreg => exact ⟨.rdreg (zext16 f.addr), by simp [decodeFields, whenZero_ok_iff, *], rfl⟩

/-- Settles O3: a row matches exactly the words that decode to its instructions. -/
theorem eachWordIsOneRowOrIllegal : Obligations.EachWordIsOneRowOrIllegal := by
  intro w
  cases hd : decode w with
  | ok i =>
    obtain ⟨-, hw⟩ := encodeInvertsDecode w i hd
    refine .inl ⟨i, rfl, fun r => ⟨fun hr => ?_, fun hr => by rw [hr, ← hw]; exact row_matches_encode i⟩⟩
    obtain ⟨j, hj, hrow⟩ := decode_of_matches r w hr
    cases hd.symm.trans hj
    exact hrow.symm
  | error e =>
    refine .inr ⟨⟨e, rfl⟩, fun r hr => ?_⟩
    obtain ⟨j, hj, -⟩ := decode_of_matches r w hr
    cases hd.symm.trans hj

/-- Settles O4: the words are evaluated. -/
theorem writtenOutWordsDecode : Obligations.WrittenOutWordsDecode :=
  ⟨rfl, rfl, rfl, rfl, rfl, rfl, rfl, rfl⟩

/-- The word of a command is taken from the port and run (30_encoding.md R100). -/
theorem step_command (s : State) (w : CommandWord) (rest : List Input) (i : Instr)
    (hin : s.inputs = .command w :: rest) (hd : decode w = .ok i) : step s = exec i { s with inputs := rest } := by
  rw [step_of_cons s _ rest hin, popInput_of_cons s _ rest hin]
  simp only [takeInput, acceptWord, hd]

/-- Settles O5: `step_command`. -/
theorem commandStepRunsDecoded : Obligations.CommandStepRunsDecoded := step_command

end Sys2Proof.Machine
end

section
/-! The control commands NOP, ROT and a failing INIT (44_control.md, 40_transform.md R146), and the reset input
(70_reset_and_hazards.md R300). -/

namespace Sys2Proof.Machine

/-- Settles O25: NOP needs nothing of LIFE, and its rule is the response. -/
theorem nopOnlyResponds : Obligations.NopOnlyResponds := by
  intro s hb
  rw [exec_nop, accept_any s _ hb, respond_ok_zero]

/-- Settles O26: ROT needs nothing of LIFE, and its rule is one write and the response. -/
theorem rotWritesOnlyRotation : Obligations.RotWritesOnlyRotation := by
  intro s r hb
  rw [exec_rot, accept_any s _ hb, respond_ok_zero]

/-- Settles O28: ALLOC_OK is tested before BUS_OK. -/
theorem initFailureOutcomes : Obligations.InitFailureOutcomes := by
  intro s rst hb hu
  rw [exec_init, accept_uninit s _ hb hu]
  refine ⟨fun ha => ?_, fun ha hbus => ?_⟩
  · rw [if_pos ha]
    rfl
  · rw [if_neg (by simp [ha]), if_pos hbus]
    rfl

/-- A transaction that reset takes from a FLUSH is no response. -/
theorem filter_isResponse_abandonedEvents (s : State) : (abandonedEvents s).filter isResponse = [] := by
  unfold abandonedEvents
  split
  · split <;> rfl
  · rfl

/-- Settles O9: the step is `resetBlock`, and what it adds to the record is no response. -/
theorem resetInputResets : Obligations.ResetInputResets := by
  intro s rest hin
  have hevents : (resetBlock (popInput s)).events.filter isResponse = s.events.filter isResponse := by
    rw [resetBlock_events, List.filter_append, filter_isResponse_abandonedEvents, List.append_nil]
    rfl
  exact ⟨resetBlock (popInput s), step_of_cons s _ rest hin, congrArg List.tail hin, rfl, rfl, rfl, rfl, rfl, rfl, rfl,
    rfl, hevents⟩

end Sys2Proof.Machine
end

section
/-! What a command does whichever it is: one response, LIFE left as it is but by INIT, a running FLUSH left alone
(60_exceptions.md R273, R274; 10_state.md R33). -/

namespace Sys2Proof.Machine

/-- How many events a command puts out (60_exceptions.md R273): a response, after EXT_RST_REQ or nothing, or none when
the command is a FLUSH that starts to run. -/
theorem events_of_commandChange (i : Instr) (s t : State) (h : CommandChange i s t) :
    (∃ front r, t.events = s.events ++ front ++ [.response r] ∧ ∀ e ∈ front, isResponse e = false) ∨
      (i = .flush ∧ s.busy = false ∧ t.busy = true ∧ t.events = s.events) := by
  have alone (c : Code) (v : Half) (u : State) (hu : u.events = s.events) : ∃ front r,
      (respond c v u).events = s.events ++ front ++ [.response r] ∧ ∀ e ∈ front, isResponse e = false :=
    ⟨[], responseWord c v, by rw [respond_events, hu, List.append_nil], by simp⟩
  cases h with
  | faults _ _ f => exact .inl (alone (faultCode f) 0 _ rfl)
  | responds _ _ v => exact .inl (alone .ok v s rfl)
  | initFailsAlloc => exact .inl (alone .errAlloc 0 _ rfl)
  | initFailsBus => exact .inl (alone .errBusInit 0 _ rfl)
  | initialises rst =>
    refine .inl ⟨if rst then [.extRstReq] else [], responseWord .ok 0, by rw [signalReset_eq]; rfl, fun e he => ?_⟩
    cases rst with
    | false => simp at he
    | true => rw [List.mem_singleton.1 he]; rfl
  | startsFlush _ hb => exact .inr ⟨rfl, hb, rfl, rfl⟩
  | _ => exact .inl (alone .ok 0 _ rfl)

/-- A command word that is taken is illegal and faults, or is the command it decodes to. -/
theorem acceptWord_cases (w : CommandWord) (s t : State) (h : acceptWord w s = .next t) :
    t = raiseFault .fIll s ∨ ∃ i, decode w = .ok i ∧ CommandChange i s t := by
  cases hd : decode w with
  | error e =>
    rw [acceptWord_of_error w s e hd] at h
    cases h
    exact .inl rfl
  | ok i =>
    simp only [acceptWord, hd] at h
    exact .inr ⟨i, rfl, change_of_exec i s t h⟩

/-- Settles O17: the events by the change the command makes, the sticky bits by its answer. -/
theorem oneResponsePerCommand : Obligations.OneResponsePerCommand := by
  intro w s t h
  constructor
  · rcases acceptWord_cases w s t h with rfl | ⟨i, hd, hc⟩
    · exact .inl ⟨[], responseWord .errIllegal 0, by rw [raiseFault_events, List.append_nil]; rfl, by simp⟩
    · refine (events_of_commandChange i s t hc).imp id fun ⟨hi, hrest⟩ => ⟨?_, hrest⟩
      rw [hd, hi]
  · cases answer_of_acceptWord w s t h with
    | fault f => exact .inr ⟨f, rfl⟩
    | response c v u hc hk => exact .inl hk
    | silent _ he hk => exact .inl hk

/-- Settles O21: while BUSY = 1 a command can only fault or, as RDREG, respond; every other change needs BUSY = 0. -/
theorem commandsLeaveRunningFlush : Obligations.CommandsLeaveRunningFlush := by
  intro s t w hbusy h
  rcases acceptWord_cases w s t h with rfl | ⟨i, hd, hc⟩
  · rfl
  · cases hc
    case faults => rfl
    case responds => rfl
    all_goals exact absurd (‹s.busy = false›.symm.trans hbusy) Bool.false_ne_true

/-- A command leaves LIFE as it is, but for INIT in UNINIT (10_state.md R33). -/
theorem life_of_commandChange (i : Instr) (s t : State) (h : CommandChange i s t) :
    t.life = s.life ∨ ((∃ rst, i = .init rst) ∧ s.life = .uninit ∧ (t.life = .ready ∨ t.life = .failed)) := by
  cases h with
  | initFailsAlloc rst _ hb hu => exact .inr ⟨⟨rst, rfl⟩, hu, .inr rfl⟩
  | initFailsBus rst _ hb hu => exact .inr ⟨⟨rst, rfl⟩, hu, .inr rfl⟩
  | initialises rst _ hb hu => exact .inr ⟨⟨rst, rfl⟩, hu, .inl (by rw [signalReset_eq]; rfl)⟩
  | _ => exact .inl rfl

theorem life_of_flushChange (ok : Bool) (s t : State) (h : FlushChange ok s t) : t.life = s.life := by
  cases h <;> rfl

/-- Settles O16: of the changes a step can make only INIT and reset write LIFE. -/
theorem lifecycleTransitions : Obligations.LifecycleTransitions := by
  refine ⟨rfl, fun s t h hne => ?_⟩
  cases change_of_step s t h with
  | command _ w rest i hi hd hc =>
    rcases life_of_commandChange i _ t hc with hsame | ⟨⟨rst, rfl⟩, hu, ht⟩
    · exact absurd hsame hne
    · exact .inr ⟨⟨w, rest, rst, hi, hd⟩, hu, ht⟩
  | flush _ ok hb hc => exact absurd (life_of_flushChange ok _ t hc) hne
  | reset rest hi => exact .inl ⟨⟨rest, hi⟩, rfl⟩
  | _ => exact absurd rfl hne

end Sys2Proof.Machine
end

section
/-! The framebuffer before INIT (20_memory.md R72): two runs from states that differ in the framebuffer alone. -/

namespace Sys2Proof.Machine

/-- From `s`, what `k` does with the framebuffer `m` in place of its own differs in the framebuffer alone, and not in it
once LIFE is READY. -/
def HidesFramebuffer (k : State → Result) (s : State) (m : Memory) : Prop :=
  ∀ t, k s = .next t → ∃ n, k (withFb m s) = .next (withFb n t) ∧ (t.life = .ready → n = t.fb)

/-- A rule that leaves LIFE out of READY and neither reads nor writes the framebuffer hides it. -/
theorem hidesFramebuffer_of_next (k : State → Result) (s u : State) (m : Memory) (hs : k s = .next u)
    (hm : k (withFb m s) = .next (withFb m u)) (hl : u.life ≠ .ready) : HidesFramebuffer k s m := by
  intro t ht
  cases hs.symm.trans ht
  exact ⟨m, hm, fun hr => absurd hr hl⟩

/-- A successful INIT empties the framebuffer, whatever was in it (44_control.md R251). -/
theorem init_hidesFramebuffer (rst : Bool) (s : State) (m : Memory) (hfb : MemoryOk s.build s.fb)
    (hm : MemoryOk s.build m) (hl : s.life ≠ .ready) (hb : s.busy = false) :
    HidesFramebuffer (exec (.init rst)) s m := by
  by_cases hu : s.life = .uninit
  · obtain ⟨hsAlloc, hsBus⟩ := initFailureOutcomes s rst hb hu
    obtain ⟨hmAlloc, hmBus⟩ := initFailureOutcomes (withFb m s) rst hb hu
    cases ha : s.allocOk with
    | false => exact hidesFramebuffer_of_next _ s _ m (hsAlloc ha) (hmAlloc ha) (by simp)
    | true =>
      cases hbus : s.busOk with
      | false => exact hidesFramebuffer_of_next _ s _ m (hsBus ha hbus) (hmBus ha hbus) (by simp)
      | true =>
        intro t ht
        cases (exec_init_succeeds rst s hb hu ha hbus).symm.trans ht
        refine ⟨[], ?_, fun _ => ?_⟩
        · rw [exec_init_succeeds rst (withFb m s) hb hu ha hbus]
          simp only [signalReset_eq, initialised, clearFramebuffer, withFb, Memory.zeroBelow_eq_nil m _ hm.2]
          rfl
        · rw [signalReset_eq]
          exact (Memory.zeroBelow_eq_nil s.fb _ hfb.2).symm
  · exact hidesFramebuffer_of_next _ s _ m (secondInitFaults s rst hb hu) (secondInitFaults (withFb m s) rst hb hu) hl

theorem rdreg_hidesFramebuffer (idx : Nat) (s : State) (m : Memory) (hl : s.life ≠ .ready) :
    HidesFramebuffer (exec (.rdreg idx)) s m := by
  have hsame : registerValue (withFb m s) idx = registerValue s idx := rfl
  cases h : registerValue s idx with
  | none =>
    exact hidesFramebuffer_of_next _ s _ m (exec_rdreg_of_none s idx h)
      (exec_rdreg_of_none (withFb m s) idx (hsame.trans h)) hl
  | some v =>
    exact hidesFramebuffer_of_next _ s _ m (exec_rdreg_of_some s idx v h)
      (exec_rdreg_of_some (withFb m s) idx v (hsame.trans h)) hl

/-- Before INIT no command but INIT passes the lifecycle check with a rule that touches the framebuffer. -/
theorem exec_hidesFramebuffer (i : Instr) (s : State) (m : Memory) (hfb : MemoryOk s.build s.fb)
    (hm : MemoryOk s.build m) (hl : s.life ≠ .ready) (hb : s.busy = false) : HidesFramebuffer (exec i) s m := by
  have notReady (hnop : i ≠ .nop) (hinit : ∀ rst, i ≠ .init rst) (hrot : ∀ r, i ≠ .rot r)
      (hrdreg : ∀ idx, i ≠ .rdreg idx) : HidesFramebuffer (exec i) s m :=
    hidesFramebuffer_of_next _ s _ m (notReadyFaults s i hb hl hnop hinit hrot hrdreg)
      (notReadyFaults (withFb m s) i hb hl hnop hinit hrot hrdreg) hl
  cases i with
  | nop => exact hidesFramebuffer_of_next _ s _ m (nopOnlyResponds s hb) (nopOnlyResponds (withFb m s) hb) hl
  | rot r =>
    exact hidesFramebuffer_of_next _ s _ m (rotWritesOnlyRotation s r hb) (rotWritesOnlyRotation (withFb m s) r hb) hl
  | init rst => exact init_hidesFramebuffer rst s m hfb hm hl hb
  | rdreg idx => exact rdreg_hidesFramebuffer idx s m hl
  | _ => exact notReady nofun nofun nofun nofun

theorem acceptWord_hidesFramebuffer (w : CommandWord) (s : State) (m : Memory) (hfb : MemoryOk s.build s.fb)
    (hm : MemoryOk s.build m) (hl : s.life ≠ .ready) (hb : s.busy = false) : HidesFramebuffer (acceptWord w) s m := by
  cases hd : decode w with
  | error e =>
    exact hidesFramebuffer_of_next _ s _ m (acceptWord_of_error w s e hd) (acceptWord_of_error w (withFb m s) e hd) hl
  | ok i =>
    have hexec : acceptWord w = exec i := funext fun u => by simp only [acceptWord, hd]
    rw [hexec]
    exact exec_hidesFramebuffer i s m hfb hm hl hb

/-- With no FLUSH running SEQ alone does nothing. -/
theorem seqAlone_hidesFramebuffer (s : State) (m : Memory) (hl : s.life ≠ .ready) (hb : s.busy = false) :
    HidesFramebuffer seqAlone s m :=
  hidesFramebuffer_of_next _ s s m (seqAlone_waits s fun h => absurd (hb.symm.trans h) Bool.false_ne_true)
    (seqAlone_waits (withFb m s) fun h => absurd (hb.symm.trans h) Bool.false_ne_true) hl

theorem takeAnswer_hidesFramebuffer (ok : Bool) (s : State) (m : Memory) (hl : s.life ≠ .ready) (hb : s.busy = false) :
    HidesFramebuffer (takeAnswer ok) s m := by
  have halone (u : State) (hu : u.busy = false) : takeAnswer ok u = seqAlone u :=
    takeAnswer_unawaited ok u fun h => absurd (hu.symm.trans h) Bool.false_ne_true
  intro t ht
  rw [halone (withFb m s) hb]
  exact seqAlone_hidesFramebuffer s m hl hb t ((halone s hb).symm.trans ht)

/-- Settles O19, input by input. -/
theorem framebufferUnseenBeforeInit : Obligations.FramebufferUnseenBeforeInit := by
  intro s t m hfb hm hl hb h
  cases hin : s.inputs with
  | nil =>
    rw [step_of_nil s hin] at h
    rw [step_of_nil (withFb m s) hin]
    exact seqAlone_hidesFramebuffer s m hl hb t h
  | cons i rest =>
    rw [step_of_cons s i rest hin] at h
    rw [step_of_cons (withFb m s) i rest hin]
    show ∃ n, takeInput i (withFb m (popInput s)) = _ ∧ _
    cases i with
    | command w => exact acceptWord_hidesFramebuffer w (popInput s) m hfb hm hl hb t h
    | answer ok => exact takeAnswer_hidesFramebuffer ok (popInput s) m hl hb t h
    | quiet => exact seqAlone_hidesFramebuffer (popInput s) m hl hb t h
    | transport ready maxbuf =>
      cases h
      exact ⟨m, rfl, fun hr => absurd hr hl⟩
    | environment allocOk busOk =>
      cases h
      exact ⟨m, rfl, fun hr => absurd hr hl⟩
    | reset =>
      cases h
      have hnone (u : State) (hu : u.busy = false) : abandonedEvents u = [] := if_neg (by simp [hu])
      refine ⟨[], ?_, fun hr => Life.noConfusion hr⟩
      simp only [takeInput, resetBlock, hnone (withFb m (popInput s)) hb, hnone (popInput s) hb]
      rfl

end Sys2Proof.Machine
end

section
/-! What the commands and steps do to the rectangle (10_state.md R38, 42_dirty.md R196). -/

namespace Sys2Proof.Machine

/-- The commands that write the rectangle when they are performed (10_state.md R38). -/
def writesRectangle : Instr → Bool
  | .init _ | .setpixClear _ _ | .setpixSet _ _ | .setpixInvert _ _ | .clear | .mark _ _ => true
  | _ => false

theorem dirty_of_nonWriter (i : Instr) (s t : State) (h : CommandChange i s t) (hi : writesRectangle i = false) :
    t.dirty = s.dirty := by
  cases h with
  | initialises => exact absurd hi (by simp [writesRectangle])
  | setsPixel _ mode x y _ hb hl hpix => rcases hpix with rfl | rfl | rfl <;> exact absurd hi (by simp [writesRectangle])
  | clears => exact absurd hi (by simp [writesRectangle])
  | marks => exact absurd hi (by simp [writesRectangle])
  | _ => rfl

/-- Settles O43: none of the six commands writes the rectangle, and an abort does not either. -/
theorem nonWritersLeaveTheRectangle : Obligations.NonWritersLeaveTheRectangle := by
  refine fun s t => ⟨fun x y addr idx byte r i hi h => dirty_of_nonWriter i s t (change_of_exec i s t h) ?_, fun hp h => ?_⟩
  · simp only [List.mem_cons, List.not_mem_nil, or_false] at hi
    rcases hi with rfl | rfl | rfl | rfl | rfl | rfl <;> rfl
  · cases change_of_flushStep false s t h with
    | aborts => rfl
    | completes _ _ hdone => exact absurd hdone hp

theorem covers_refl (d : Dirty) : Covers d d := ⟨le_rfl, le_rfl, le_rfl, le_rfl⟩

/-- A widened rectangle covers what it was (42_dirty.md R190). -/
theorem covers_of_widened (px py : Int) (d e : Dirty) (h : WidenedBy px py d e) : Covers e d := by
  obtain ⟨hx1, hy1, hx2, hy2⟩ := h
  exact ⟨hx1 ▸ min_le_left _ _, hy1 ▸ min_le_left _ _, hx2 ▸ le_max_left _ _, hy2 ▸ le_max_left _ _⟩

/-- The full rectangle covers every rectangle of the buffer, and the sentinel. -/
theorem covers_dirtyFull (b : Build) (d : Dirty) (hd : DirtyOk b d) : Covers (dirtyFull b) d := by
  obtain ⟨hx1, hy1, hx2, hy2⟩ := dirtyFull_toInt b
  have hw := b.w_range
  have hh := b.h_range
  rw [Covers, hx1, hy1, hx2, hy2]
  rcases hd with rfl | hd
  · simp only [sentinel_dx1, sentinel_dy1, sentinel_dx2, sentinel_dy2]
    omega
  · omega

/-- A command leaves a rectangle that covers what it was, or is INIT in UNINIT, which leaves the sentinel. -/
theorem covers_of_commandChange (i : Instr) (s t : State) (h : CommandChange i s t) (hd : DirtyOk s.build s.dirty) :
    Covers t.dirty s.dirty ∨ (t.dirty = Dirty.sentinel ∧ (∃ rst, i = .init rst) ∧ s.life = .uninit) := by
  cases h with
  | initialises rst _ hb hu => exact .inr ⟨by rw [signalReset_eq]; rfl, ⟨rst, rfl⟩, hu⟩
  | setsPixel _ mode x y _ hb hl hi hxy =>
    have hp := transform_inPhysicalRange s.build s.rot x y hxy
    exact .inl (covers_of_widened _ _ s.dirty _ (markDirty_widens s.build _ _ s.dirty hp))
  | clears => exact .inl (covers_dirtyFull s.build s.dirty hd)
  | marks x y _ hb hl hp => exact .inl (covers_of_widened x y s.dirty _ (markDirty_widens s.build x y s.dirty hp))
  | _ => exact .inl (covers_refl s.dirty)

/-- Settles O44: of the steps of a running FLUSH only the completion writes the rectangle. -/
theorem rectangleGrowsUntilReset : Obligations.RectangleGrowsUntilReset := by
  intro s t hd h
  cases change_of_step s t h with
  | command _ w rest i hi hdec hc =>
    rcases covers_of_commandChange i _ t hc hd with hcov | ⟨hsent, ⟨rst, rfl⟩, hu⟩
    · exact .inl hcov
    · exact .inr ⟨hsent, .inr (.inl ⟨w, rest, rst, hi, hdec, hu⟩)⟩
  | flush _ ok hb hc =>
    cases hc with
    | completes _ _ hp => exact .inr ⟨rfl, .inr (.inr ⟨hb, hp, rfl⟩)⟩
    | _ => exact .inl (covers_refl s.dirty)
  | reset rest hi => exact .inr ⟨rfl, .inl ⟨rest, hi⟩⟩
  | _ => exact .inl (covers_refl s.dirty)

/-- Settles O45: a byte of page p stands at row 8 * p, which lies in the buffer because H is more than 8 * (PAGES - 1). -/
theorem markCoversARawWrite : Obligations.MarkCoversARawWrite := by
  intro b d e a hd ha hwiden
  obtain ⟨hx1, hy1, hx2, hy2⟩ := hwiden
  have hcol : a % b.w < b.w := Nat.mod_lt _ b.w_range.1
  have hpage : a / b.w < (b.h + 7) / 8 := (Nat.div_lt_iff_lt_mul b.w_range.1).2 ha
  have hphys : InPhysicalRange b (a % b.w : Nat) (8 * (a / b.w) : Nat) := by
    unfold InPhysicalRange
    omega
  refine ⟨hphys, ?_, ?_⟩
  · unfold firstPage lastPage
    omega
  · unfold startColumn endColumn clampColumn clamp
    omega

end Sys2Proof.Machine
end

section
/-! STATUS (10_state.md R40): its fields as digits of one number. -/

namespace Sys2Proof.Machine

theorem lifeCode_le (l : Life) : lifeCode l ≤ 2 := by cases l <;> decide

theorem initErrCode_le (e : InitErr) : initErrCode e ≤ 2 := by cases e <;> decide

/-- Each field of STATUS is below its range, a bit at most 1. -/
theorem statusFields_le (s : State) : lifeCode s.life ≤ 2 ∧ initErrCode s.initErr ≤ 2 ∧ s.busy.toNat ≤ 1 ∧
    (!dirtyEmpty s.dirty).toNat ≤ 1 ∧ s.lfail.toNat ≤ 1 ∧ s.sticky.fIll.toNat ≤ 1 ∧ s.sticky.fNrdy.toNat ≤ 1 ∧
    s.sticky.fBusy.toNat ≤ 1 ∧ s.sticky.fAddr.toNat ≤ 1 ∧ s.sticky.fXport.toNat ≤ 1 ∧ s.sticky.fReinit.toNat ≤ 1 :=
  ⟨lifeCode_le _, initErrCode_le _, Bool.toNat_le _, Bool.toNat_le _, Bool.toNat_le _, Bool.toNat_le _, Bool.toNat_le _,
    Bool.toNat_le _, Bool.toNat_le _, Bool.toNat_le _, Bool.toNat_le _⟩

/-- The sum of the fields is below 2^14, so it is the register's number. -/
theorem statusWord_toNat (s : State) : (statusWord s).toNat =
    lifeCode s.life + s.busy.toNat * 2 ^ 2 + (!dirtyEmpty s.dirty).toNat * 2 ^ 3 + s.lfail.toNat * 2 ^ 4 +
      initErrCode s.initErr * 2 ^ 5 + s.sticky.fIll.toNat * 2 ^ 8 + s.sticky.fNrdy.toNat * 2 ^ 9 +
      s.sticky.fBusy.toNat * 2 ^ 10 + s.sticky.fAddr.toNat * 2 ^ 11 + s.sticky.fXport.toNat * 2 ^ 12 +
      s.sticky.fReinit.toNat * 2 ^ 13 := by
  have hle := statusFields_le s
  rw [statusWord, BitVec.toNat_ofNat, Nat.mod_eq_of_lt (by omega)]

/-- A bit of a value is a digit of its number. -/
theorem getLsbD_eq_iff (n k : Nat) (v : BitVec n) (b : Bool) : v.getLsbD k = b ↔ v.toNat / 2 ^ k % 2 = b.toNat := by
  rw [BitVec.getLsbD, Nat.testBit_eq_decide_div_mod_eq]
  cases b <;> simp

/-- Settles O30: each field is the digit of STATUS at its weight. -/
theorem statusFieldLayout : Obligations.StatusFieldLayout := by
  intro s
  have hle := statusFields_le s
  rw [← BitVec.toNat_inj]
  simp only [getLsbD_eq_iff, BitVec.extractLsb'_toNat, Nat.shiftRight_eq_div_pow, statusWord_toNat]
  simp only [Bool.toNat_false, show (0 : BitVec 2).toNat = 0 from rfl]
  omega

end Sys2Proof.Machine
end

section
/-! Pixels (40_transform.md, 41_pixel.md): the transform and the address of a pixel are injective, and what a SETPIX does to
its own bit and to every other. -/

namespace Sys2Proof.Machine

/-- Settles O31, rotation by rotation. -/
theorem transformIsBijective : Obligations.TransformIsBijective := by
  refine fun b r => ⟨fun x y h => ⟨transform_inPhysicalRange b r x y h, ?_⟩, fun px py h => ⟨?_, ?_⟩⟩
  · cases r <;> simp only [transform, transformInverse, Prod.mk.injEq, true_and, and_true] <;> omega
  · cases r <;> simp only [transformInverse, logicalWidth, logicalHeight, InLogicalRange] <;> omega
  · cases r <;> simp only [transform, transformInverse, Prod.mk.injEq, true_and, and_true] <;> omega

theorem transform_injective (b : Build) (r : Rotation) (x y u v : Int) (hxy : InLogicalRange b r x y)
    (huv : InLogicalRange b r u v) (h : transform b r x y = transform b r u v) : (x, y) = (u, v) := by
  rw [← ((transformIsBijective b r).1 x y hxy).2, ← ((transformIsBijective b r).1 u v huv).2, h]

/-- A byte and a bit of the framebuffer hold one physical pixel (20_memory.md R73). -/
theorem pixel_injective (b : Build) (px py qx qy : Int) (hp : InPhysicalRange b px py) (hq : InPhysicalRange b qx qy)
    (ha : pixelAddr b px py = pixelAddr b qx qy) (hbit : pixelBit py = pixelBit qy) : px = qx ∧ py = qy := by
  rw [pixelAddr_eq b px py hp, pixelAddr_eq b qx qy hq] at ha
  have digits (a c : Nat) (hc : c < b.w) : (a * b.w + c) / b.w = a ∧ (a * b.w + c) % b.w = c := by
    rw [Nat.mul_comm, Nat.mul_add_div b.w_range.1, Nat.mul_add_mod, Nat.div_eq_of_lt hc, Nat.mod_eq_of_lt hc]
    exact ⟨rfl, rfl⟩
  have hpd := digits (py / 8).toNat px.toNat (by omega)
  have hqd := digits (qy / 8).toNat qx.toNat (by omega)
  rw [ha] at hpd
  unfold pixelBit at hbit
  omega

/-- What a mode does to the pixel's bit (41_pixel.md R161). -/
def modeBit : PixelMode → Bool → Bool
  | .set, _ => true
  | .clear, _ => false
  | .invert, v => !v

/-- SETPIX changes one bit of the byte it writes back. -/
theorem applyMode_getLsbD (mode : PixelMode) (py : Int) (v : Byte) (k : Nat) (hk : k < 8) :
    (applyMode mode (pixelMask py) v).getLsbD k =
      if k = pixelBit py then modeBit mode (v.getLsbD k) else v.getLsbD k := by
  have hones : (0xFF#8).getLsbD k = true := by interval_cases k <;> rfl
  have hmask := pixelMask_getLsbD py k
  by_cases h : k = pixelBit py
  · rw [decide_eq_true h] at hmask
    rw [if_pos h]
    cases mode <;>
      simp only [applyMode, modeBit, BitVec.getLsbD_or, BitVec.getLsbD_and, BitVec.getLsbD_xor, hones, hmask] <;> simp
  · rw [decide_eq_false h] at hmask
    rw [if_neg h]
    cases mode <;>
      simp only [applyMode, BitVec.getLsbD_or, BitVec.getLsbD_and, BitVec.getLsbD_xor, hones, hmask] <;> simp

/-- Two distinct logical pixels have distinct bits (41_pixel.md R170). -/
theorem pixelPlace_ne (b : Build) (r : Rotation) (x y u v : Int) (hxy : InLogicalRange b r x y)
    (huv : InLogicalRange b r u v) (hne : (u, v) ≠ (x, y)) :
    (pixelAddr b (transform b r x y).1 (transform b r x y).2, pixelBit (transform b r x y).2) ≠
      (pixelAddr b (transform b r u v).1 (transform b r u v).2, pixelBit (transform b r u v).2) := by
  intro h
  obtain ⟨ha, hbit⟩ := Prod.mk.inj h
  have hpix := pixel_injective b _ _ _ _ (transform_inPhysicalRange b r x y hxy) (transform_inPhysicalRange b r u v huv)
    ha hbit
  exact hne (transform_injective b r x y u v hxy huv (Prod.ext hpix.1 hpix.2)).symm

/-- The pixels after a SETPIX in range: its own by its mode, every other as it was. -/
theorem pixelValue_pixelWritten (mode : PixelMode) (s : State) (x y u v : Int) (hfb : s.fb.wf)
    (hxy : InLogicalRange s.build s.rot x y) (huv : InLogicalRange s.build s.rot u v) :
    pixelValue s.build s.rot (pixelWritten mode x y s).fb u v =
      if (u, v) = (x, y) then modeBit mode (pixelValue s.build s.rot s.fb u v)
      else pixelValue s.build s.rot s.fb u v := by
  simp only [pixelValue, pixelWritten, respond_fb, Memory.read_write s.fb _ _ _ hfb.1]
  by_cases hsame : (u, v) = (x, y)
  · obtain ⟨rfl, rfl⟩ := Prod.mk.inj hsame
    rw [if_pos rfl, if_pos rfl, applyMode_getLsbD _ _ _ _ (pixelBit_lt _), if_pos rfl]
  · rw [if_neg hsame]
    split
    · rename_i ha
      have hbit : pixelBit (transform s.build s.rot u v).2 ≠ pixelBit (transform s.build s.rot x y).2 := fun hbit =>
        pixelPlace_ne s.build s.rot x y u v hxy huv hsame (Prod.ext ha.symm hbit.symm)
      rw [applyMode_getLsbD _ _ _ _ (pixelBit_lt _), if_neg hbit, ha]
    · rfl

/-- DATA of GETPIX is the pixel's bit (41_pixel.md R165). -/
theorem bit_response (v : Byte) (k : Nat) : (((v >>> k) &&& 1#8).setWidth 16).setWidth 32 =
    if v.getLsbD k then 0x00000001#32 else 0x00000000#32 := by
  rw [BitVec.and_one_eq_setWidth_ofBool_getLsbD, BitVec.getLsbD_ushiftRight, Nat.add_zero]
  cases v.getLsbD k <;> rfl

/-- Settles O34: DATA is the pixel's bit moved to bit 0. -/
theorem getpixReadsItsBit : Obligations.GetpixReadsItsBit := by
  intro s x y hb hr hxy
  rw [exec_getpix, accept_ready s _ hb hr, if_pos hxy]
  simp only [respond_ok, bit_response]
  rfl

/-- The commands of SETPIX in range are `pixelWritten` with their modes. -/
theorem exec_setpix_inRange (s : State) (x y : Int) (hb : s.busy = false) (hr : s.life = .ready)
    (hxy : InLogicalRange s.build s.rot x y) :
    exec (.setpixClear x y) s = .next (pixelWritten .clear x y s) ∧
      exec (.setpixSet x y) s = .next (pixelWritten .set x y s) ∧
      exec (.setpixInvert x y) s = .next (pixelWritten .invert x y s) := by
  simp only [exec_setpixClear, exec_setpixSet, exec_setpixInvert, accept_ready s _ hb hr, setPixel_inRange _ x y s hxy,
    and_self]

/-- GETPIX of the pixel that a SETPIX in range has written. -/
theorem getpix_pixelWritten (mode : PixelMode) (s : State) (x y : Int) (hb : s.busy = false) (hr : s.life = .ready)
    (hfb : s.fb.wf) (hxy : InLogicalRange s.build s.rot x y) :
    exec (.getpix x y) (pixelWritten mode x y s) = .next { pixelWritten mode x y s with
      events := (pixelWritten mode x y s).events ++ [.response
        (if modeBit mode (pixelValue s.build s.rot s.fb x y) then 0x00000001#32 else 0x00000000#32)] } := by
  have hpixel := pixelValue_pixelWritten mode s x y x y hfb hxy hxy
  rw [if_pos rfl] at hpixel
  rw [← hpixel]
  exact getpixReadsItsBit (pixelWritten mode x y s) x y hb hr hxy

theorem wf_pixelWritten (mode : PixelMode) (s : State) (x y : Int) (hfb : s.fb.wf) : (pixelWritten mode x y s).fb.wf :=
  Memory.wf_write s.fb _ _ hfb

/-- Settles O36: what GETPIX answers after each mode does not depend on the bit before, and INVERT undoes itself. -/
theorem pixelRoundTrips : Obligations.PixelRoundTrips := by
  intro s x y hb hr hfb hxy answers
  obtain ⟨hclear, hset, hinvert⟩ := exec_setpix_inRange s x y hb hr hxy
  refine ⟨⟨_, hset, getpix_pixelWritten .set s x y hb hr hfb hxy, ?_⟩,
    ⟨_, hclear, getpix_pixelWritten .clear s x y hb hr hfb hxy⟩, ?_⟩
  · have hfb' := wf_pixelWritten .set s x y hfb
    exact ⟨_, (exec_setpix_inRange (pixelWritten .set x y s) x y hb hr hxy).1,
      getpix_pixelWritten .clear (pixelWritten .set x y s) x y hb hr hfb' hxy⟩
  · have hfb' := wf_pixelWritten .invert s x y hfb
    refine ⟨_, _, hinvert, (exec_setpix_inRange (pixelWritten .invert x y s) x y hb hr hxy).2.2, ?_⟩
    have hfirst := pixelValue_pixelWritten .invert s x y x y hfb hxy hxy
    have hsecond := pixelValue_pixelWritten .invert (pixelWritten .invert x y s) x y x y hfb' hxy hxy
    rw [if_pos rfl] at hfirst hsecond
    refine hsecond.trans ?_
    exact (congrArg not hfirst).trans (Bool.not_not _)

/-- Settles O37: `pixelPlace_ne` and what a SETPIX leaves in the other pixels. -/
theorem setpixChangesNoOtherPixel : Obligations.SetpixChangesNoOtherPixel := by
  intro s x y u v hb hr hfb hxy huv hne
  refine ⟨pixelPlace_ne s.build s.rot x y u v hxy huv hne, fun i hi => ?_⟩
  have hother (mode : PixelMode) := pixelValue_pixelWritten mode s x y u v hfb hxy huv
  simp only [if_neg hne] at hother
  obtain ⟨hclear, hset, hinvert⟩ := exec_setpix_inRange s x y hb hr hxy
  simp only [List.mem_cons, List.not_mem_nil, or_false] at hi
  rcases hi with rfl | rfl | rfl
  · exact ⟨_, hclear, hother .clear⟩
  · exact ⟨_, hset, hother .set⟩
  · exact ⟨_, hinvert, hother .invert⟩

/-- Settles O38: the framebuffer is `zeroBelow` FBSIZE and the rectangle `dirtyFull`. -/
theorem clearBlanksAndMarksAll : Obligations.ClearBlanksAndMarksAll := by
  intro s hb hr
  refine ⟨s.fb.zeroBelow (fbSize s.build), dirtyFull s.build, ?_, zeroesBelow_zeroBelow s.fb _, dirtyFull_toInt s.build⟩
  rw [exec_clear, accept_ready s _ hb hr, respond_ok_zero]
  rfl

/-- Settles O40: FBWR below FBSIZE is one write of the framebuffer. -/
theorem fbwrWritesTheByte : Obligations.FbwrWritesTheByte := by
  intro s addr byte hb hr hfb haddr
  refine ⟨s.fb.write addr byte, ?_, storesByte_write s.fb addr byte hfb⟩
  rw [exec_fbwr, accept_ready s _ hb hr, if_neg (Nat.not_le.mpr haddr), respond_ok_zero]

/-- Settles O41: the bounds check decides between `markDirty` and the response alone. -/
theorem markWidensInsideOnly : Obligations.MarkWidensInsideOnly := by
  intro s x y hb hr
  rw [exec_mark, accept_ready s _ hb hr]
  refine ⟨fun hin => ⟨markDirty x y s.dirty, ?_, markDirty_widens s.build x y s.dirty hin⟩, fun hout => ?_⟩
  · rw [if_pos hin, respond_ok_zero]
  · rw [if_neg hout, respond_ok_zero]

end Sys2Proof.Machine
end

section
/-! The transactions of FlushSeq (43_flush.md R214 to R220, R223, R226): the chunks of a byte range, one after the other,
and the pages of a rectangle. -/

namespace Sys2Proof.Machine

/-! Bytes and chunks (43_flush.md R218, R219). -/

@[simp] theorem length_bytesAt (m : Memory) (a n : Nat) : (bytesAt m a n).length = n := by simp [bytesAt]

theorem bytesAt_add (m : Memory) (a n k : Nat) : bytesAt m a (n + k) = bytesAt m a n ++ bytesAt m (a + n) k := by
  simp [bytesAt, List.range_add, Nat.add_assoc]

@[simp] theorem chunkCount_zero (c : Nat) (hc : 1 ≤ c) : chunkCount 0 c = 0 :=
  Nat.div_eq_of_lt (by omega)

/-- The first chunk takes `min(len, CMAX)` bytes, and the others are the chunks of the rest. -/
theorem chunkCount_succ (len c : Nat) (hlen : 1 ≤ len) (hc : 1 ≤ c) :
    chunkCount len c = chunkCount (len - min len c) c + 1 := by
  unfold chunkCount
  rcases Nat.le_total len c with h | h
  · rw [Nat.min_eq_left h, Nat.sub_self, Nat.div_eq_of_lt (by omega : 0 + c - 1 < c)]
    exact Nat.div_eq_of_lt_le (by omega) (by omega)
  · rw [Nat.min_eq_right h, ← Nat.add_div_right _ hc]
    congr 1
    omega

@[simp] theorem length_dataChunks (b : Build) (m : Memory) (a len c : Nat) :
    (dataChunks b m a len c).length = chunkCount len c := by simp [dataChunks]

theorem dataChunks_zero (b : Build) (m : Memory) (a c : Nat) (hc : 1 ≤ c) : dataChunks b m a 0 c = [] :=
  List.eq_nil_of_length_eq_zero (by rw [length_dataChunks, chunkCount_zero c hc])

/-- The chunks of a byte range: `min(len, CMAX)` bytes, then the chunks of the rest (43_flush.md R218). -/
theorem dataChunks_succ (b : Build) (m : Memory) (a len c : Nat) (hlen : 1 ≤ len) (hc : 1 ≤ c) :
    dataChunks b m a len c =
      dataChunk b (bytesAt m a (min len c)) :: dataChunks b m (a + min len c) (len - min len c) c := by
  rw [dataChunks, chunkCount_succ len c hlen hc, List.range_succ_eq_map, List.map_cons, List.map_map, dataChunks]
  congr 1
  · rw [Nat.zero_mul, Nat.zero_add, Nat.one_mul, Nat.sub_zero, Nat.add_zero, Nat.min_comm]
  · rcases Nat.le_total len c with h | h
    · simp [Nat.min_eq_left h, chunkCount_zero c hc]
    · refine List.map_congr_left fun k _ => ?_
      simp only [Function.comp, Nat.min_eq_right h, Nat.succ_eq_add_one, Nat.add_mul, Nat.one_mul]
      congr 2 <;> omega

/-- The chunks' bytes in order are the bytes of the range. -/
theorem flatMap_payload_dataChunks (b : Build) (m : Memory) (a len c : Nat) (hc : 1 ≤ c) :
    (dataChunks b m a len c).flatMap Transaction.payload = bytesAt m a len := by
  induction len using Nat.strong_induction_on generalizing a with
  | _ len ih =>
    rcases Nat.eq_zero_or_pos len with rfl | hlen
    · rw [dataChunks_zero b m a c hc]
      rfl
    · rw [dataChunks_succ b m a len c hlen hc, List.flatMap_cons, ih _ (by omega), dataChunk, ← bytesAt_add]
      congr 1
      omega

/-- All chunks but the last have CMAX bytes, and the last has what is left (43_flush.md R219). -/
theorem map_payload_length_dataChunks (b : Build) (m : Memory) (a len c : Nat) (hc : 1 ≤ c) :
    (dataChunks b m a len c).map (fun x => x.payload.length) =
      List.replicate (len / c) c ++ (if len % c = 0 then [] else [len % c]) := by
  induction len using Nat.strong_induction_on generalizing a with
  | _ len ih =>
    rcases Nat.eq_zero_or_pos len with rfl | hlen
    · simp [dataChunks_zero b m a c hc]
    · rw [dataChunks_succ b m a len c hlen hc, List.map_cons, ih _ (by omega), dataChunk, length_bytesAt]
      rcases Nat.lt_or_ge len c with h | h
      · rw [Nat.min_eq_left (Nat.le_of_lt h), Nat.sub_self, Nat.div_eq_of_lt h, Nat.mod_eq_of_lt h]
        simp [Nat.ne_of_gt hlen]
      · rw [Nat.min_eq_right h, Nat.div_eq_sub_div hc h, Nat.mod_eq_sub_mod h, List.replicate_succ, List.cons_append]

/-- Settles O56, by induction on the length of the range, chunk by chunk. -/
theorem chunksRebuildTheRange : Obligations.ChunksRebuildTheRange := by
  intro b m a len c hlen hc
  exact ⟨map_payload_length_dataChunks b m a len c hc, length_dataChunks b m a len c,
    flatMap_payload_dataChunks b m a len c hc⟩

/-! Pages (43_flush.md R214, R215). -/

/-- A transaction of a page is its page-select or a data transaction of at most CMAX bytes. -/
theorem mem_pageTransactions (b : Build) (m : Memory) (cs len c p : Nat) (x : Transaction)
    (h : x ∈ pageTransactions b m cs len c p) :
    x = pageSelect b p (cs + b.colOffset) ∨ (x.kind = .data ∧ x.payload.length ≤ c) := by
  rcases List.mem_cons.1 h with hx | hx
  · exact .inl hx
  · obtain ⟨k, -, rfl⟩ := List.mem_map.1 hx
    refine .inr ⟨rfl, ?_⟩
    rw [dataChunk, length_bytesAt, Nat.add_mul]
    omega

theorem mem_flushSeq (b : Build) (m : Memory) (d : Dirty) (c : Nat) (x : Transaction) : x ∈ flushSeq b m d c ↔
    ∃ p, (firstPage d ≤ p ∧ p < lastPage d) ∧
      x ∈ pageTransactions b m (startColumn b d) (pageBytes b d) c p := by
  simp only [flushSeq, List.mem_flatMap, List.mem_range'_1]
  refine exists_congr fun p => and_congr_left fun _ => ?_
  omega

/-- Settles O57: a page-select has four bytes on the wire, a data transaction at most 1 + CMAX. -/
theorem transactionsFitMaxbuf : Obligations.TransactionsFitMaxbuf := by
  intro b m d maxbuf hm x hx
  obtain ⟨p, -, hx⟩ := (mem_flushSeq b m d _ x).1 hx
  rw [Transaction.wire, List.length_cons]
  rcases mem_pageTransactions b m _ _ _ p x hx with rfl | ⟨-, hlen⟩
  · exact hm
  · omega

/-- A page code is 0xB0 plus the page, and a column code 0x10 plus the nibble (43_flush.md R215). -/
theorem or_ofNat_nibble (n : Nat) (hn : n < 16) :
    0xB0#8 ||| BitVec.ofNat 8 n = BitVec.ofNat 8 (0xB0 + n) ∧ 0x10#8 ||| BitVec.ofNat 8 n = BitVec.ofNat 8 (0x10 + n) := by
  interval_cases n <;> exact ⟨rfl, rfl⟩

theorem pageSelect_page_injective (b : Build) (p q c : Nat) (hp : p < 16) (hq : q < 16)
    (h : pageSelect b p c = pageSelect b q c) : p = q := by
  have hcode : 0xB0#8 ||| BitVec.ofNat 8 p = 0xB0#8 ||| BitVec.ofNat 8 q :=
    List.head_eq_of_cons_eq (congrArg Transaction.payload h)
  rw [(or_ofNat_nibble p hp).1, (or_ofNat_nibble q hq).1, ← BitVec.toNat_inj, BitVec.toNat_ofNat, BitVec.toNat_ofNat]
    at hcode
  omega

/-- Settles O58: the pages of FlushSeq are those from DY1 div 8 to DY2 div 8, and their page-selects are distinct. -/
theorem everyTouchedPageIsSent : Obligations.EveryTouchedPageIsSent := by
  intro b m d c p hd he hp
  obtain ⟨-, hy⟩ := bounds_of_nonempty b d hd he
  have hpages := lastPage_le_pages b d hd he
  have hmax := pages_le b
  have hrows : (∃ y : Int, d.dy1.toInt ≤ y ∧ y ≤ d.dy2.toInt ∧ y / 8 = p) ↔ firstPage d ≤ p ∧ p < lastPage d := by
    unfold firstPage lastPage
    exact ⟨fun ⟨y, h⟩ => by omega, fun h => ⟨max d.dy1.toInt (8 * p), by omega⟩⟩
  rw [hrows, mem_flushSeq]
  constructor
  · rintro ⟨q, hq, hx⟩
    rcases mem_pageTransactions b m _ _ c q _ hx with hsel | ⟨hkind, -⟩
    · rwa [pageSelect_page_injective b p q _ hp (by omega) hsel]
    · exact TransactionKind.noConfusion hkind
  · exact fun h => ⟨p, h, List.mem_cons_self⟩

/-- FlushSeq has `(LP - FP) * (1 + ceil(L / CMAX))` transactions (43_flush.md R227). -/
theorem length_flushSeq (b : Build) (m : Memory) (d : Dirty) (c : Nat) : (flushSeq b m d c).length =
    (lastPage d - firstPage d) * (1 + chunkCount (pageBytes b d) c) := by
  simp [flushSeq, List.length_flatMap, pageTransactions, Nat.add_comm]

end Sys2Proof.Machine
end

section
/-! The step of a running FLUSH (43_flush.md R225): SELECT, DONE, and that it reads neither XPORT_READY nor MAXBUF. -/

namespace Sys2Proof.Machine

/-- Settles O49: `afterSelect` of a page that has bytes to send, and every field of the page-select fits. -/
theorem selectStepSendsPageSelect : Obligations.SelectStepSendsPageSelect := by
  intro s rest hinv hb hp hin c
  obtain ⟨hd, -, -, -, hwork⟩ := hinv
  have hw := hwork hb
  have hnd : s.working.phase ≠ .done := by simp [hp]
  obtain ⟨hcols, hptr, hrem⟩ := pageStart_toNat s.build s.dirty s.working hd hw hnd
  have hpage := page_lt_of_running s.build s.dirty s.working hd hw hnd
  have hmax := pages_le s.build
  have hfp : s.working.fp.toNat < 16 := by omega
  have hc : c < 256 := by
    obtain ⟨-, -, -, ⟨-, hce⟩, -, -⟩ := hw
    have hend := endColumn_lt s.build s.dirty
    have hoff := s.build.colOffset_range
    omega
  refine ⟨afterSelect s.build s.working, ?_, ⟨hfp, hc⟩, ?_⟩
  · rw [step_answer_awaited s true rest hb hnd hin, flushStep_select { s with inputs := rest } hp, pageSelect,
      (or_ofNat_nibble _ hfp).1, (or_ofNat_nibble (c / 16) (by omega)).2]
    rfl
  · rw [afterSelect_eq s.build s.working hcols]
    exact ⟨hptr, hrem.trans (by omega), rfl⟩

/-- Settles O52: in DONE SEQ alone is `completeFlush`. -/
theorem doneStepCompletes : Obligations.DoneStepCompletes := by
  intro s hb hp hin
  refine ⟨freeWorking s.draws, s.draws + 1, ?_⟩
  rw [step_of_nil s hin, seqAlone_done s hb hp]
  rfl

theorem flushStep_stops (ok : Bool) (s : State) (hp : s.working.phase = .data) (hx : currentTransaction s = none) :
    flushStep ok s = .fault .fbOutOfRange := by
  simp [flushStep, hp, hx]

/-- Each change that a step of a running FLUSH makes is the same change whatever XPORT shows. -/
theorem flushStep_withXport (ok : Bool) (s t : State) (x : Xport) (h : flushStep ok s = .next t) :
    flushStep ok (withXport x s) = .next (withXport x t) := by
  cases change_of_flushStep ok s t h with
  | selects _ hp => exact flushStep_select (withXport x s) hp
  | sends _ hp hr => exact flushStep_data (withXport x s) hp hr
  | aborts _ y hp hy => exact flushStep_fail (withXport x s) y hp hy
  | completes _ _ hp => exact flushStep_done ok (withXport x s) hp

/-- Settles O60: a step that goes on does the same, and a step that stops stops in the same way. -/
theorem runningFlushIgnoresTransportChange : Obligations.RunningFlushIgnoresTransportChange := by
  refine fun s x => ⟨fun rest hin => ?_, fun ok => ?_⟩
  · rw [step_of_cons s _ rest hin, popInput_of_cons s _ rest hin]
    rfl
  · rcases flushStep_goesOn_or_stops ok s with ⟨t, h⟩ | ⟨hp, hx⟩
    · rw [h]
      exact flushStep_withXport ok s t x h
    · rw [flushStep_stops ok s hp hx]
      exact flushStep_stops ok (withXport x s) hp hx

end Sys2Proof.Machine
end

section
/-! A FLUSH from its accepting step to its end (43_flush.md R210 to R227): at each step the transactions still to send are
known, a transaction answered ok is the first of them, and DONE is where there are none. -/

namespace Sys2Proof.Machine

/-! Runs of the machine. -/

theorem run_zero (s : State) : Host.Core.run Sys2Proof.core 0 s = .next s := rfl

theorem run_succ (k : Nat) (s t : State) (h : step s = .next t) :
    Host.Core.run Sys2Proof.core (k + 1) s = Host.Core.run Sys2Proof.core k t := by
  have hcore : Sys2Proof.core.step s = .next t := h
  simp only [Host.Core.run, hcore]

theorem step_of_run_succ (k : Nat) (s t : State) (h : Host.Core.run Sys2Proof.core (k + 1) s = .next t) :
    ∃ u, step s = .next u ∧ Host.Core.run Sys2Proof.core k u = .next t := by
  cases hs : Sys2Proof.core.step s with
  | next u => exact ⟨u, hs, by simpa only [Host.Core.run, hs] using h⟩
  | fault f => simp only [Host.Core.run, hs, reduceCtorEq] at h
  | refused r => simp only [Host.Core.run, hs, reduceCtorEq] at h

theorem run_add (j k : Nat) (s t : State) (h : Host.Core.run Sys2Proof.core j s = .next t) :
    Host.Core.run Sys2Proof.core (j + k) s = Host.Core.run Sys2Proof.core k t := by
  induction j generalizing s with
  | zero =>
    cases h
    rw [Nat.zero_add]
  | succ j ih =>
    obtain ⟨u, hs, hu⟩ := step_of_run_succ j s t h
    rw [Nat.succ_add, run_succ (j + k) s u hs, ih u hu]

/-! The transactions still to send. -/

/-- The transactions of the pages from `p` up to `last`, exclusive, in ascending order (43_flush.md R214). -/
def pagesFrom (b : Build) (m : Memory) (d : Dirty) (c p last : Nat) : List Transaction :=
  (List.range' p (last - p)).flatMap (pageTransactions b m (startColumn b d) (pageBytes b d) c)

theorem pagesFrom_nil (b : Build) (m : Memory) (d : Dirty) (c p last : Nat) (h : last ≤ p) :
    pagesFrom b m d c p last = [] := by
  rw [pagesFrom, Nat.sub_eq_zero_of_le h]
  rfl

theorem pagesFrom_cons (b : Build) (m : Memory) (d : Dirty) (c p last : Nat) (h : p < last) :
    pagesFrom b m d c p last =
      pageTransactions b m (startColumn b d) (pageBytes b d) c p ++ pagesFrom b m d c (p + 1) last := by
  rw [pagesFrom, show last - p = last - (p + 1) + 1 by omega, List.range'_succ, List.flatMap_cons, pagesFrom]

/-- The transactions that a running FLUSH with the working registers `w` has still to send: in DATA the chunks of the rest
of page FP and then the later pages, otherwise the pages from FP on. -/
def transactionsLeft (b : Build) (m : Memory) (d : Dirty) (w : Working) : List Transaction :=
  if w.phase = .data then
    dataChunks b m w.ptr.toNat w.rem.toNat w.cmax.toNat ++ pagesFrom b m d w.cmax.toNat (w.fp.toNat + 1) w.lp.toNat
  else pagesFrom b m d w.cmax.toNat w.fp.toNat w.lp.toNat

/-- A FLUSH that has just been accepted has all of FlushSeq to send. -/
theorem transactionsLeft_flushSetup (s : State) (hd : DirtyOk s.build s.dirty) (he : dirtyEmpty s.dirty = false)
    (hm : 4 ≤ s.xport.maxbuf.toNat) : transactionsLeft s.build s.fb s.dirty (flushSetup s) =
      flushSeq s.build s.fb s.dirty (s.xport.maxbuf.toNat - 1) := by
  obtain ⟨hfirst, hlast⟩ := flushSetup_pageRange s hd he
  have hphase : (flushSetup s).phase ≠ .data := nextPhase_ne_data _ _
  rw [transactionsLeft, if_neg hphase, flushSetup_cmax s hm, hfirst, hlast]
  rfl

theorem transactionsLeft_done (b : Build) (m : Memory) (d : Dirty) (w : Working) (hw : WorkingOk b d w)
    (hp : w.phase = .done) : transactionsLeft b m d w = [] := by
  obtain ⟨-, -, -, -, hdone, -⟩ := hw
  rw [transactionsLeft, if_neg (by simp [hp])]
  exact pagesFrom_nil b m d _ _ _ (Nat.le_of_eq (hdone.1 hp).symm)

/-- In SELECT the page-select of page FP comes first. -/
theorem transactionsLeft_select (b : Build) (m : Memory) (d : Dirty) (w : Working) (hd : DirtyOk b d)
    (hw : WorkingOk b d w) (hp : w.phase = .select) : transactionsLeft b m d w =
      pageSelect b w.fp.toNat (w.cs.toNat + b.colOffset) :: transactionsLeft b m d (afterSelect b w) := by
  have hnd : w.phase ≠ .done := by simp [hp]
  obtain ⟨hcols, hptr, hrem⟩ := pageStart_toNat b d w hd hw hnd
  obtain ⟨hlt, -⟩ := page_lt_of_running b d w hd hw hnd
  obtain ⟨-, -, -, ⟨hcs, hce⟩, -, -⟩ := hw
  rw [transactionsLeft, if_neg (by simp [hp]), pagesFrom_cons b m d _ _ _ hlt, afterSelect_eq b w hcols,
    transactionsLeft, if_pos rfl]
  simp only [hptr, hrem, pageTransactions, List.cons_append, ← hcs, ← hce, pageBytes]

/-- In DATA the next chunk comes first. -/
theorem transactionsLeft_data (b : Build) (m : Memory) (d : Dirty) (w : Working) (hd : DirtyOk b d)
    (hw : WorkingOk b d w) (hp : w.phase = .data) : transactionsLeft b m d w =
      dataChunk b (bytesAt m w.ptr.toNat (chunkSize w)) :: transactionsLeft b m d (afterChunk (chunkSize w) w) := by
  have hle := chunkSize_le_rem w
  have hptr := add_chunk_toNat b w (chunkSize w) (chunk_inFramebuffer b d w hd hw hp)
  have hrem := sub_chunk_toNat w (chunkSize w) hle
  have hfp := next_page_toNat b w (page_lt_of_running b d w hd hw (by simp [hp]))
  have hsize := one_le_chunkSize b d w hw hp
  obtain ⟨-, ⟨hcmax, -⟩, -, -, -, -⟩ := hw
  have hc : 1 ≤ w.cmax.toNat := by omega
  rw [transactionsLeft, if_pos hp, dataChunks_succ b m _ _ _ (Nat.le_trans hsize hle) hc, List.cons_append]
  rw [show min w.rem.toNat w.cmax.toNat = chunkSize w from rfl]
  congr 1
  rcases Nat.lt_or_eq_of_le hle with hmore | hlast
  · rw [afterChunk_more w _ hmore, transactionsLeft, if_pos hp]
    simp only [hptr, hrem]
  · rw [afterChunk_last w _ hlast, transactionsLeft, if_neg (nextPhase_ne_data _ _)]
    simp only [hfp]
    rw [hlast, Nat.sub_self, dataChunks_zero b m _ _ hc, List.nil_append]

/-! The steps of a running FLUSH, by its transactions. -/

/-- A FLUSH runs in `s`, within the ranges of 10_state.md R44. -/
structure FlushRuns (s : State) : Prop where
  busy : s.busy = true
  dirtyOk : DirtyOk s.build s.dirty
  workingOk : WorkingOk s.build s.dirty s.working

/-- The transactions that the FLUSH running in `s` has still to send. -/
def unsent (s : State) : List Transaction := transactionsLeft s.build s.fb s.dirty s.working

/-- The state of a running FLUSH after the transactions `txs` have been answered ok. -/
def advanced (s : State) (txs : List Transaction) (rest : List Input) (w : Working) : State :=
  { s with inputs := rest, working := w, events := s.events ++ txs.map fun x => .transaction x true }

theorem phase_done_of_unsent_nil (s : State) (hrun : FlushRuns s) (h : unsent s = []) : s.working.phase = .done := by
  cases hp : s.working.phase with
  | done => rfl
  | select =>
    rw [unsent, transactionsLeft_select s.build s.fb s.dirty s.working hrun.dirtyOk hrun.workingOk hp] at h
    cases h
  | data =>
    rw [unsent, transactionsLeft_data s.build s.fb s.dirty s.working hrun.dirtyOk hrun.workingOk hp] at h
    cases h

theorem phase_ne_done_of_unsent_cons (s : State) (hrun : FlushRuns s) (x : Transaction) (more : List Transaction)
    (h : unsent s = x :: more) : s.working.phase ≠ .done := by
  intro hp
  rw [unsent, transactionsLeft_done s.build s.fb s.dirty s.working hrun.workingOk hp] at h
  cases h

/-- The first transaction still to send is the one with XPORT, and when it is answered ok the others are left. -/
theorem flushStep_ok_of_unsent_cons (s : State) (hrun : FlushRuns s) (x : Transaction) (more : List Transaction)
    (h : unsent s = x :: more) : currentTransaction s = some x ∧
      ∃ w, flushStep true s = .next (advanced s [x] s.inputs w) ∧ WorkingOk s.build s.dirty w ∧
        transactionsLeft s.build s.fb s.dirty w = more := by
  obtain ⟨hb, hd, hw⟩ := hrun
  cases hp : s.working.phase with
  | done => exact absurd hp (phase_ne_done_of_unsent_cons s ⟨hb, hd, hw⟩ x more h)
  | select =>
    rw [unsent, transactionsLeft_select s.build s.fb s.dirty s.working hd hw hp] at h
    cases h
    exact ⟨currentTransaction_select s hp, _, flushStep_select s hp,
      workingOk_afterSelect s.build s.dirty s.working hd hw hp, rfl⟩
  | data =>
    have hchunk := chunk_inFramebuffer s.build s.dirty s.working hd hw hp
    rw [unsent, transactionsLeft_data s.build s.fb s.dirty s.working hd hw hp] at h
    cases h
    exact ⟨currentTransaction_data s hp hchunk, _, flushStep_data s hp hchunk,
      workingOk_afterChunk s.build s.dirty s.working hd hw hp, rfl⟩

/-- One answer ok is one step (43_flush.md R225). -/
theorem step_ok_of_unsent_cons (s : State) (hrun : FlushRuns s) (x : Transaction) (more : List Transaction)
    (rest : List Input) (h : unsent s = x :: more) (hin : s.inputs = .answer true :: rest) :
    ∃ w, step s = .next (advanced s [x] rest w) ∧ FlushRuns (advanced s [x] rest w) ∧
      unsent (advanced s [x] rest w) = more := by
  obtain ⟨hb, hd, hw⟩ := hrun
  have hp := phase_ne_done_of_unsent_cons s ⟨hb, hd, hw⟩ x more h
  obtain ⟨-, w, hflush, hwork, hleft⟩ :=
    flushStep_ok_of_unsent_cons { s with inputs := rest } ⟨hb, hd, hw⟩ x more h
  exact ⟨w, (step_answer_awaited s true rest hb hp hin).trans hflush, ⟨hb, hd, hwork⟩, hleft⟩

/-- One answer fail is one step, the last of the FLUSH (43_flush.md R221). -/
theorem step_fail_of_unsent_cons (s : State) (hrun : FlushRuns s) (x : Transaction) (more : List Transaction)
    (rest : List Input) (h : unsent s = x :: more) (hin : s.inputs = .answer false :: rest) :
    step s = .next (abortFlush (emitEvent (.transaction x false) { s with inputs := rest })) := by
  have hp := phase_ne_done_of_unsent_cons s hrun x more h
  obtain ⟨hx, -⟩ := flushStep_ok_of_unsent_cons s hrun x more h
  rw [step_answer_awaited s false rest hrun.busy hp hin]
  exact flushStep_fail { s with inputs := rest } x hp hx

/-- Where all transactions are sent, the next step completes the FLUSH, if no input but answers comes (43_flush.md
R222). -/
theorem step_completes_of_unsent_nil (s : State) (hrun : FlushRuns s) (h : unsent s = [])
    (hin : s.inputs = [] ∨ ∃ ok rest, s.inputs = .answer ok :: rest) :
    step s = .next (completeFlush { s with inputs := s.inputs.tail }) := by
  have hp := phase_done_of_unsent_nil s hrun h
  rcases hin with hnil | ⟨ok, rest, hcons⟩
  · show step s = .next (completeFlush (popInput s))
    rw [popInput_of_nil s hnil, step_of_nil s hnil, seqAlone_done s hrun.busy hp]
  · rw [step_of_cons s _ rest hcons]
    exact (takeAnswer_unawaited ok (popInput s) fun _ => hp).trans (seqAlone_done (popInput s) hrun.busy hp)

/-- The refinement: while XPORT answers ok, a running FLUSH puts out the transactions it has still to send, in their
order. -/
theorem run_advances (txs more : List Transaction) (s : State) (rest : List Input) (hrun : FlushRuns s)
    (h : unsent s = txs ++ more) (hin : s.inputs = List.replicate txs.length (.answer true) ++ rest) :
    ∃ w, Host.Core.run Sys2Proof.core txs.length s = .next (advanced s txs rest w) ∧ FlushRuns (advanced s txs rest w) ∧
      unsent (advanced s txs rest w) = more := by
  induction txs generalizing s with
  | nil =>
    have hsame : advanced s [] rest s.working = s := by
      have hin : s.inputs = rest := hin
      rw [advanced, ← hin, List.map_nil, List.append_nil]
    exact ⟨s.working, by rw [hsame]; rfl, by rwa [hsame], by rwa [hsame]⟩
  | cons x txs ih =>
    obtain ⟨w, hstep, hrun', hleft⟩ := step_ok_of_unsent_cons s hrun x (txs ++ more) _ h hin
    obtain ⟨v, hv, hrest⟩ := ih _ hrun' hleft rfl
    have hjoin (y : Working) (r : List Input) : advanced (advanced s [x] r w) txs rest y = advanced s (x :: txs) rest y := by
      simp only [advanced, List.append_assoc, List.map_cons, List.map_nil, List.cons_append, List.nil_append]
    rw [hjoin] at hv hrest
    exact ⟨v, by rw [List.length_cons, run_succ _ s _ hstep, hv], hrest⟩

/-! The accepting step, and the three statements. -/

/-- The state in which an accepted FLUSH begins to run. -/
def accepted (s : State) (rest : List Input) : State :=
  { s with inputs := rest, working := flushSetup s, busy := true }

/-- The accepting step of a FLUSH of a non-empty region that passes the transport check (43_flush.md R210 to R213). -/
theorem step_accepts_flush (s : State) (rest : List Input) (hb : s.busy = false) (hr : s.life = .ready)
    (hd : DirtyOk s.build s.dirty) (he : dirtyEmpty s.dirty = false) (hx : s.xport.ready = true)
    (hm : 4 ≤ s.xport.maxbuf.toNat) (hin : s.inputs = .command 0x7000000000000000#64 :: rest) :
    step s = .next (accepted s rest) ∧ FlushRuns (accepted s rest) ∧
      unsent (accepted s rest) = flushSeq s.build s.fb s.dirty (s.xport.maxbuf.toNat - 1) := by
  refine ⟨?_, ⟨rfl, hd, workingOk_flushSetup s hd he hm⟩, transactionsLeft_flushSetup s hd he hm⟩
  rw [step_command s _ rest .flush hin rfl]
  exact exec_flush_starts { s with inputs := rest } hb hr he hx hm

/-- Settles O53: the accepting step, FlushSeq answered ok, and the completion. -/
theorem flushEmitsItsSequence : Obligations.FlushEmitsItsSequence := by
  intro s hb hr hd he hx hm txs hin
  obtain ⟨hstep, hrun, hunsent⟩ := step_accepts_flush s _ hb hr hd he hx hm hin
  obtain ⟨w, hsends, hdone, hnone⟩ := run_advances txs [] _ [] hrun (hunsent.trans (List.append_nil txs).symm)
    (by simp [accepted])
  have hends := step_completes_of_unsent_nil _ hdone hnone (.inl rfl)
  refine ⟨freeWorking s.draws, s.draws + 1, ?_⟩
  rw [run_succ _ s _ hstep, run_add txs.length 1 _ _ hsends, run_succ 0 _ _ hends]
  rfl

/-- Settles O54: the accepting step, the first `k` of FlushSeq answered ok, and the abort. -/
theorem failedFlushEmitsAPart : Obligations.FailedFlushEmitsAPart := by
  intro s k x rest hb hr hd he hx hm txs hk hin
  obtain ⟨hlt, hget⟩ := List.getElem?_eq_some_iff.1 hk
  have hsplit : txs = txs.take k ++ x :: txs.drop (k + 1) := by
    rw [← hget, List.getElem_cons_drop, List.take_append_drop]
  have hlen : (txs.take k).length = k := List.length_take_of_le (Nat.le_of_lt hlt)
  obtain ⟨hstep, hrun, hunsent⟩ := step_accepts_flush s _ hb hr hd he hx hm hin
  obtain ⟨w, hsends, hruns, hleft⟩ := run_advances (txs.take k) _ _ (.answer false :: rest) hrun (hunsent.trans hsplit)
    (by rw [hlen]; rfl)
  have hends := step_fail_of_unsent_cons _ hruns x _ rest hleft rfl
  rw [hlen] at hsends
  refine ⟨freeWorking s.draws, s.draws + 1, ?_⟩
  rw [run_succ _ s _ hstep, run_add k 1 _ _ hsends, run_succ 0 _ _ hends, run_zero, abortFlush_eq]
  simp only [emitEvent, advanced, accepted, List.append_assoc, List.cons_append, List.nil_append]

/-- A FLUSH whose transactions are all answered, ok or fail, ends within one step more than it has transactions. -/
theorem run_ends (answers : List Bool) (s : State) (hrun : FlushRuns s) (hin : s.inputs = answers.map .answer)
    (hlen : (unsent s).length ≤ answers.length) :
    ∃ k u, k ≤ (unsent s).length + 1 ∧ Host.Core.run Sys2Proof.core k s = .next u ∧ u.busy = false := by
  induction answers generalizing s with
  | nil =>
    have hnil := List.eq_nil_of_length_eq_zero (Nat.le_zero.1 hlen)
    exact ⟨1, _, Nat.le_add_left _ _, run_succ 0 s _ (step_completes_of_unsent_nil s hrun hnil (.inl hin)), rfl⟩
  | cons a answers ih =>
    cases hleft : unsent s with
    | nil =>
      exact ⟨1, _, Nat.le_refl _, run_succ 0 s _ (step_completes_of_unsent_nil s hrun hleft (.inr ⟨a, _, hin⟩)), rfl⟩
    | cons x more =>
      cases a with
      | false =>
        exact ⟨1, _, Nat.le_add_left _ _, run_succ 0 s _ (step_fail_of_unsent_cons s hrun x more _ hleft hin), rfl⟩
      | true =>
        obtain ⟨w, hstep, hrun', hleft'⟩ := step_ok_of_unsent_cons s hrun x more _ hleft hin
        have hlen' : more.length ≤ answers.length := by simpa [hleft] using hlen
        obtain ⟨k, u, hk, hu, hidle⟩ := ih _ hrun' rfl (by rwa [hleft'])
        rw [hleft'] at hk
        exact ⟨k + 1, u, Nat.succ_le_succ hk, (run_succ k s _ hstep).trans hu, hidle⟩

/-- A FLUSH that runs after its accepting step was accepted with a non-empty region and a transport that is ready. -/
theorem starts_of_exec_flush (s t : State) (hb : s.busy = false) (h : exec .flush s = .next t) (ht : t.busy = true) :
    dirtyEmpty s.dirty = false ∧ 4 ≤ s.xport.maxbuf.toNat ∧ t = { s with working := flushSetup s, busy := true } := by
  cases change_of_exec .flush s t h with
  | startsFlush _ _ _ he hx hm => exact ⟨he, hm, rfl⟩
  | faults => exact absurd (hb.symm.trans ht) Bool.false_ne_true
  | responds => exact absurd (hb.symm.trans ht) Bool.false_ne_true
  | setsPixel => exact absurd (hb.symm.trans ht) Bool.false_ne_true
  | flushesNothing => exact absurd (hb.symm.trans ht) Bool.false_ne_true

/-- 16 pages, each of one page-select and at most 86 chunks, and the completion (43_flush.md R227). -/
theorem flush_bound_le (b : Build) (d : Dirty) (c : Nat) (hd : DirtyOk b d) (he : dirtyEmpty d = false) (hc : 3 ≤ c) :
    (lastPage d - firstPage d) * (1 + chunkCount (pageBytes b d) c) + 1 ≤ 1393 := by
  have hlast := lastPage_le_pages b d hd he
  have hpages := pages_le b
  have hend := endColumn_lt b d
  have hw := b.w_range
  have hchunks : chunkCount (pageBytes b d) c < 87 := by
    rw [chunkCount, Nat.div_lt_iff_lt_mul (by omega), pageBytes]
    omega
  have hmul := Nat.mul_le_mul (show lastPage d - firstPage d ≤ 16 by omega)
    (show 1 + chunkCount (pageBytes b d) c ≤ 87 by omega)
  omega

/-- Settles O55: the bound is one more than the length of FlushSeq. -/
theorem flushTerminates : Obligations.FlushTerminates := by
  constructor
  · intro s t answers hb hr hd h ht bound hin hlen
    obtain ⟨he, hm, hstart⟩ := starts_of_exec_flush s t hb h ht
    have hruns : FlushRuns t := by
      rw [hstart]
      exact ⟨rfl, hd, workingOk_flushSetup s hd he hm⟩
    have hcmax : t.working.cmax.toNat = s.xport.maxbuf.toNat - 1 := by
      rw [hstart]
      exact flushSetup_cmax s hm
    have hunsent : unsent t = flushSeq s.build s.fb s.dirty t.working.cmax.toNat := by
      rw [hcmax, hstart]
      exact transactionsLeft_flushSetup s hd he hm
    have hbound : bound = (unsent t).length + 1 := by rw [hunsent, length_flushSeq]
    refine ⟨flush_bound_le s.build s.dirty _ hd he (by omega), ?_⟩
    rw [hbound] at hlen ⊢
    exact run_ends answers t hruns hin (Nat.le_of_succ_le_succ hlen)
  · intro s hwait hin
    rw [step_of_nil s hin]
    refine seqAlone_waits s fun _ hp => ?_
    simp [awaitsAnswer, hp] at hwait

end Sys2Proof.Machine
end

section
/-! The assembly text (30_encoding.md R117, R118): an assembled command has operands that fit, and a line is read as its
mnemonic and its operands. -/

namespace Sys2Proof.Machine

/-! What assembles fits. -/

theorem inRange_ok_iff (i j : Instr) : inRange i = .ok j ↔ WellFormed i ∧ i = j := by
  unfold inRange
  by_cases h : i.fits = true <;> simp [WellFormed, h]

theorem wellFormed_of_inRange (i j : Instr) (h : inRange i = .ok j) : WellFormed j := by
  obtain ⟨hfits, rfl⟩ := (inRange_ok_iff i j).1 h
  exact hfits

theorem wellFormed_of_assemblePoint (make : Int → Int → Instr) (x y : List Char) (i : Instr)
    (h : assemblePoint make x y = .ok i) : WellFormed i := by
  unfold assemblePoint at h
  split at h
  · exact wellFormed_of_inRange _ i h
  · cases h

theorem wellFormed_of_assembleSetpix (x y mode : List Char) (i : Instr) (h : assembleSetpix x y mode = .ok i) :
    WellFormed i := by
  unfold assembleSetpix at h
  split_ifs at h
  all_goals exact wellFormed_of_assemblePoint _ x y i h

theorem wellFormed_of_assembleFbwr (addr byte : List Char) (i : Instr) (h : assembleFbwr addr byte = .ok i) :
    WellFormed i := by
  unfold assembleFbwr at h
  split at h
  · split_ifs at h
    exact wellFormed_of_inRange _ i h
  · cases h

theorem wellFormed_of_assembleBare (m : List Char) (i : Instr) (h : assembleBare m = .ok i) : WellFormed i := by
  unfold assembleBare at h
  split_ifs at h
  all_goals
    cases h
    rfl

theorem wellFormed_of_assembleUnary (m a : List Char) (i : Instr) (h : assembleUnary m a = .ok i) : WellFormed i := by
  unfold assembleUnary at h
  split_ifs at h
  · cases h
    rfl
  · split at h
    · cases h
      rfl
    · cases h
  · split at h
    · exact wellFormed_of_inRange _ i h
    · cases h
  · split at h
    · exact wellFormed_of_inRange _ i h
    · cases h

theorem wellFormed_of_assembleBinary (m a b : List Char) (i : Instr) (h : assembleBinary m a b = .ok i) :
    WellFormed i := by
  unfold assembleBinary at h
  split_ifs at h
  · exact wellFormed_of_assemblePoint _ a b i h
  · exact wellFormed_of_assemblePoint _ a b i h
  · exact wellFormed_of_assembleFbwr a b i h
  all_goals exact wellFormed_of_assembleSetpix a b _ i h

theorem wellFormed_of_assembleParts (m : List Char) (ops : List (List Char)) (i : Instr)
    (h : assembleParts m ops = .ok i) : WellFormed i := by
  unfold assembleParts at h
  split at h
  · exact wellFormed_of_assembleBare m i h
  · exact wellFormed_of_assembleUnary m _ i h
  · exact wellFormed_of_assembleBinary m _ _ i h
  · unfold assembleTernary at h
    split_ifs at h
    exact wellFormed_of_assembleSetpix _ _ _ i h
  · cases h

/-! A line and its parts. -/

/-- A mnemonic or an operand as it stands in a line: not empty, without a space and without a comma. -/
abbrev AsmToken (s : List Char) : Prop := s ≠ [] ∧ ' ' ∉ s ∧ ',' ∉ s

theorem dropSpaces_eq_self (cs : List Char) (h : cs.head? ≠ some ' ') : dropSpaces cs = cs := by
  unfold dropSpaces
  split
  · simp at h
  · rfl

theorem trimSpaces_eq_self (cs : List Char) (hhead : cs.head? ≠ some ' ') (hlast : cs.getLast? ≠ some ' ') :
    trimSpaces cs = cs := by
  rw [trimSpaces, dropSpaces_eq_self cs hhead, dropSpaces_eq_self _ (by rwa [List.head?_reverse]), List.reverse_reverse]

theorem trimSpaces_token (s : List Char) (h : ' ' ∉ s) : trimSpaces s = s :=
  trimSpaces_eq_self s (fun he => h (List.mem_of_mem_head? he)) (fun he => h (List.mem_of_getLast? he))

theorem trimSpaces_space_cons (cs : List Char) : trimSpaces (' ' :: cs) = trimSpaces cs := by
  simp only [trimSpaces, dropSpaces]

/-- The operands of a line begin and end with a character that is no space. -/
theorem edges_intercalate (sep : List Char) (ops : List (List Char)) (hne : ops ≠ []) (h : ∀ s ∈ ops, AsmToken s) :
    (sep.intercalate ops).head? ≠ some ' ' ∧ (sep.intercalate ops).getLast? ≠ some ' ' ∧ sep.intercalate ops ≠ [] := by
  induction ops with
  | nil => exact absurd rfl hne
  | cons o ops ih =>
    obtain ⟨⟨hnil, hspace, -⟩, hops⟩ := List.forall_mem_cons.1 h
    cases ops with
    | nil =>
      rw [List.intercalate_singleton]
      exact ⟨fun he => hspace (List.mem_of_mem_head? he), fun he => hspace (List.mem_of_getLast? he), hnil⟩
    | cons p ops =>
      obtain ⟨-, hlast, hrest⟩ := ih (by simp) hops
      rw [List.intercalate_cons_cons, List.append_assoc]
      refine ⟨?_, ?_, by simp [hnil]⟩
      · rw [List.head?_append_of_ne_nil _ hnil]
        exact fun he => hspace (List.mem_of_mem_head? he)
      · rwa [← List.append_assoc, List.getLast?_append_of_ne_nil _ hrest]

theorem splitMnemonic_append (m cs : List Char) (h : ' ' ∉ m) : splitMnemonic (m ++ ' ' :: cs) = (m, cs) := by
  induction m with
  | nil => rfl
  | cons c m ih =>
    obtain ⟨hc, hm⟩ := List.ne_and_not_mem_of_not_mem_cons h
    rw [List.cons_append, splitMnemonic, ih hm]
    exact fun he => hc he.symm

theorem splitAtChar_of_not_mem (sep : Char) (cs : List Char) (h : sep ∉ cs) : splitAtChar sep cs = [cs] := by
  induction cs with
  | nil => rfl
  | cons c cs ih =>
    obtain ⟨hc, hcs⟩ := List.ne_and_not_mem_of_not_mem_cons h
    simp only [splitAtChar, ih hcs, if_neg (Ne.symm hc)]

theorem splitAtChar_ne_nil (sep : Char) (cs : List Char) : splitAtChar sep cs ≠ [] := by
  cases cs with
  | nil => simp [splitAtChar]
  | cons c cs =>
    rw [splitAtChar]
    split
    · simp
    · split_ifs <;> simp

/-- The piece before a separator is cut off. -/
theorem splitAtChar_append (sep : Char) (o cs : List Char) (h : sep ∉ o) :
    splitAtChar sep (o ++ sep :: cs) = o :: splitAtChar sep cs := by
  obtain ⟨p, ps, hps⟩ := List.exists_cons_of_ne_nil (splitAtChar_ne_nil sep cs)
  induction o with
  | nil => simp only [List.nil_append, splitAtChar, hps, if_true]
  | cons c o ih =>
    obtain ⟨hc, ho⟩ := List.ne_and_not_mem_of_not_mem_cons h
    simp only [List.cons_append, splitAtChar, ih ho, if_neg (Ne.symm hc)]

/-- The operands of a line are read back, the space after each comma dropped. -/
theorem map_trimSpaces_splitAtChar (ops : List (List Char)) (hne : ops ≠ []) (h : ∀ s ∈ ops, AsmToken s) :
    (splitAtChar ',' ([',', ' '].intercalate ops)).map trimSpaces = ops := by
  induction ops with
  | nil => exact absurd rfl hne
  | cons o ops ih =>
    obtain ⟨⟨-, hspace, hcomma⟩, hops⟩ := List.forall_mem_cons.1 h
    cases ops with
    | nil =>
      rw [List.intercalate_singleton, splitAtChar_of_not_mem _ o hcomma, List.map_singleton, trimSpaces_token o hspace]
    | cons p ops =>
      have hspaced (cs : List Char) :
          (splitAtChar ',' (' ' :: cs)).map trimSpaces = (splitAtChar ',' cs).map trimSpaces := by
        obtain ⟨q, qs, hqs⟩ := List.exists_cons_of_ne_nil (splitAtChar_ne_nil ',' cs)
        simp only [splitAtChar, hqs, if_neg (show ' ' ≠ ',' by decide), List.map_cons, trimSpaces_space_cons]
      rw [List.intercalate_cons_cons, List.append_assoc, List.cons_append, List.cons_append, List.nil_append,
        splitAtChar_append _ o _ hcomma, List.map_cons, trimSpaces_token o hspace, hspaced, ih (by simp) hops]

/-- A line is read as its mnemonic and its operands (30_encoding.md R117). -/
theorem assembleLine_asmLine (m : List Char) (ops : List (List Char)) (hne : ops ≠ [])
    (h : ∀ s ∈ m :: ops, AsmToken s) : assembleLine (asmLine m ops) = assembleParts m ops := by
  obtain ⟨⟨hm, hspace, -⟩, hops⟩ := List.forall_mem_cons.1 h
  obtain ⟨hhead, hlast, hnil⟩ := edges_intercalate [',', ' '] ops hne hops
  have htrim : trimSpaces (asmLine m ops) = asmLine m ops := by
    refine trimSpaces_eq_self _ ?_ ?_
    · rw [asmLine, List.head?_append_of_ne_nil _ hm]
      exact fun he => hspace (List.mem_of_mem_head? he)
    · rw [asmLine, ← List.singleton_append, ← List.append_assoc, List.getLast?_append_of_ne_nil _ hnil]
      exact hlast
  have hoperands : splitOperands ([',', ' '].intercalate ops) = ops := by
    rw [splitOperands, trimSpaces_eq_self _ hhead hlast, if_neg hnil, map_trimSpaces_splitAtChar ops hne hops]
  rw [assembleLine, htrim, asmLine, splitMnemonic_append m _ hspace]
  simp only [hoperands]

end Sys2Proof.Machine
end

section
/-! The operands of the assembly text (30_encoding.md R117): numerals, and each operand in and out of its range. -/

namespace Sys2Proof.Machine

/-! Numerals. -/

theorem digitValue_digitChar_decimal (d : Nat) (hd : d < 10) : digitValue 10 (Nat.digitChar d) = some d := by
  interval_cases d <;> rfl

theorem digitValue_digitChar_hex (d : Nat) (hd : d < 16) : digitValue 16 (Nat.digitChar d) = some d := by
  interval_cases d <;> rfl

/-- Digits that are read one by one are read together. -/
theorem digitsValue_map_digitChar (base : Nat) (hbase : ∀ d, d < base → digitValue base (Nat.digitChar d) = some d)
    (ds : List Nat) (hds : ∀ d ∈ ds, d < base) (acc : Nat) :
    digitsValue base acc (ds.map Nat.digitChar) = some (ds.foldl (fun n d => n * base + d) acc) := by
  induction ds generalizing acc with
  | nil => rfl
  | cons d ds ih =>
    obtain ⟨hd, hds⟩ := List.forall_mem_cons.1 hds
    simp only [List.map_cons, digitsValue, hbase d hd, ih hds, List.foldl_cons]

/-- A numeral that does not begin with `0x` is decimal. -/
theorem parseNat_decimal (c : Char) (cs : List Char) (h : c = '0' → cs.head? ≠ some 'x') :
    parseNat (c :: cs) = digitsValue 10 0 (c :: cs) := by
  rw [parseNat]
  · rintro rfl rfl
    exact h rfl rfl
  · rintro e es rfl rfl
    exact h rfl rfl

theorem parseNat_map_digitChar (ds : List Nat) (hne : ds ≠ []) (hds : ∀ d ∈ ds, d < 10) :
    parseNat (ds.map Nat.digitChar) = some (numeralValue 10 ds) := by
  obtain ⟨d, es, rfl⟩ := List.exists_cons_of_ne_nil hne
  rw [List.map_cons, parseNat_decimal, ← List.map_cons]
  · exact digitsValue_map_digitChar 10 digitValue_digitChar_decimal _ hds 0
  · intro _ hx
    cases es <;> simp at hx

theorem parseNat_hex (ds : List Nat) (hne : ds ≠ []) (hds : ∀ d ∈ ds, d < 16) :
    parseNat ('0' :: 'x' :: ds.map Nat.digitChar) = some (numeralValue 16 ds) := by
  obtain ⟨d, es, rfl⟩ := List.exists_cons_of_ne_nil hne
  exact digitsValue_map_digitChar 16 digitValue_digitChar_hex _ hds 0

/-- A natural numeral has no sign, and its sign negates it. -/
theorem parseInt_of_parseNat (s : List Char) (n : Nat) (h : parseNat s = some n) :
    parseInt s = some (n : Int) ∧ parseInt ('-' :: s) = some (-(n : Int)) := by
  constructor
  · unfold parseInt
    split
    · rw [parseNat_decimal _ _ fun hc => absurd hc (by decide)] at h
      cases h
    · rw [h]
      rfl
  · rw [parseInt, h]
    rfl

/-! Operands in their ranges and out of them. -/

theorem assemblesWhen_inRange (P : Prop) (i : Instr) (h : i.fits = true ↔ P) : AssemblesWhen P (inRange i) i :=
  ⟨fun hp => if_pos (h.2 hp), fun hp => if_neg (mt h.1 hp)⟩

theorem coordFits_iff (x y : Int) : (coordFits x && coordFits y) = true ↔
    (-32768 ≤ x ∧ x ≤ 32767) ∧ (-32768 ≤ y ∧ y ≤ 32767) := by
  simp only [coordFits, Bool.and_eq_true, decide_eq_true_eq]

theorem addrFits_iff (n : Nat) : addrFits n = true ↔ n ≤ 65535 := by
  rw [addrFits, decide_eq_true_eq]
  omega

/-- A command of two coordinates assembles exactly when both fit. -/
theorem assemblesWhen_point (make : Int → Int → Instr) (a b : List Char) (x y : Int) (ha : parseInt a = some x)
    (hb : parseInt b = some y) (hmake : (make x y).fits = (coordFits x && coordFits y)) :
    AssemblesWhen ((-32768 ≤ x ∧ x ≤ 32767) ∧ (-32768 ≤ y ∧ y ≤ 32767)) (assemblePoint make a b) (make x y) := by
  simp only [assemblePoint, ha, hb]
  exact assemblesWhen_inRange _ _ (hmake ▸ coordFits_iff x y)

theorem parseNat_registerNames : ∀ name ∈ registerNames, parseNat name = none := by decide

/-- A number is no register name, so RDREG reads it as an index. -/
theorem parseRegister_of_parseNat (a : List Char) (n : Nat) (h : parseNat a = some n) : parseRegister a = some n := by
  have hname : registerNames.findIdx? (fun name => decide (name = a)) = none := by
    rw [List.findIdx?_eq_none_iff]
    rintro name hname
    refine decide_eq_false fun he => ?_
    rw [← he, parseNat_registerNames name hname] at h
    cases h
  simp only [parseRegister, hname, h]

/-- A number is no number of degrees, so ROT reads it as a code. -/
theorem parseRotation_of_parseNat (a : List Char) (n : Nat) (h : parseNat a = some n) : parseRotation a =
    if n < 4 then .ok (rotationOfCode (BitVec.ofNat 2 n)) else .error .operandOutOfRange := by
  have hne (cs : List Char) (hcs : parseNat cs = none) : a ≠ cs := by
    rintro rfl
    rw [hcs] at h
    cases h
  rw [parseRotation, if_neg (hne _ rfl), if_neg (hne _ rfl), if_neg (hne _ rfl), if_neg (hne _ rfl), h]

theorem assemblesWhen_fbwr (a b : List Char) (n v : Nat) (ha : parseNat a = some n) (hb : parseNat b = some v) :
    AssemblesWhen (n ≤ 65535 ∧ v ≤ 255) (assembleFbwr a b) (.fbwr n (BitVec.ofNat 8 v)) := by
  simp only [assembleFbwr, ha, hb]
  by_cases hv : v < 256
  · rw [if_pos hv]
    exact assemblesWhen_inRange _ _ ((addrFits_iff n).trans (by omega))
  · rw [if_neg hv]
    exact ⟨fun h => absurd h.2 (by omega), fun _ => rfl⟩

/-- FBRD and RDREG with a number. -/
theorem assemble_address_number (a : List Char) (n : Nat) (h : parseNat a = some n) :
    assembleParts "FBRD".toList [a] = inRange (.fbrd n) ∧ assembleParts "RDREG".toList [a] = inRange (.rdreg n) := by
  have hfbrd : assembleParts "FBRD".toList [a] = match parseNat a with
      | some n => inRange (.fbrd n)
      | none => .error .badLine := rfl
  have hrdreg : assembleParts "RDREG".toList [a] = match parseRegister a with
      | some n => inRange (.rdreg n)
      | none => .error .badLine := rfl
  rw [hfbrd, hrdreg, h, parseRegister_of_parseNat a n h]
  exact ⟨rfl, rfl⟩

/-- ROT with a number assembles the rotation of that code and no other number. -/
theorem assemble_rot_number (a : List Char) (n : Nat) (h : parseNat a = some n) :
    (∀ r : Rotation, (rotationCode r).toNat = n → assembleParts "ROT".toList [a] = .ok (.rot r)) ∧
      (3 < n → assembleParts "ROT".toList [a] = .error .operandOutOfRange) := by
  have hparts : assembleParts "ROT".toList [a] = match parseRotation a with
      | .ok r => .ok (.rot r)
      | .error e => .error e := rfl
  rw [hparts, parseRotation_of_parseNat a n h]
  refine ⟨fun r hr => ?_, fun hn => ?_⟩
  · rw [← hr, if_pos (rotationCode r).isLt, BitVec.ofNat_toNat, BitVec.setWidth_eq, rotationOfCode_rotationCode]
  · rw [if_neg (by omega)]

/-- Settles O7: each part of R117 and R118 is a lemma above, and the forms without a number are evaluated. -/
theorem assembledOperandsFit : Obligations.AssembledOperandsFit := by
  refine ⟨fun line i h => wellFormed_of_assembleParts _ _ i h, assembleLine_asmLine,
    fun ds hne => ⟨parseNat_map_digitChar ds hne, parseNat_hex ds hne⟩, parseInt_of_parseNat, ?_, ?_, ?_, ?_⟩
  · intro a b x y ha hb fits
    have hpoint (make : Int → Int → Instr) (hmake : (make x y).fits = (coordFits x && coordFits y)) :
        AssemblesWhen fits (assemblePoint make a b) (make x y) := assemblesWhen_point make a b x y ha hb hmake
    simp only [List.forall_mem_cons, List.not_mem_nil, false_imp_iff, implies_true, and_true]
    exact ⟨⟨hpoint .getpix rfl, hpoint .mark rfl, hpoint .setpixSet rfl, hpoint .setpixClear rfl,
      hpoint .setpixInvert rfl⟩, hpoint .setpixSet rfl, hpoint .setpixClear rfl, hpoint .setpixInvert rfl⟩
  · intro a n ha
    obtain ⟨hfbrd, hrdreg⟩ := assemble_address_number a n ha
    obtain ⟨hrot, hrange⟩ := assemble_rot_number a n ha
    rw [hfbrd, hrdreg]
    exact ⟨assemblesWhen_inRange _ _ (addrFits_iff n), assemblesWhen_inRange _ _ (addrFits_iff n), hrot, hrange,
      fun b v hb => assemblesWhen_fbwr a b n v ha hb⟩
  all_goals simp only [List.forall_mem_cons, List.not_mem_nil, false_imp_iff, implies_true, and_true]
  · exact ⟨rfl, rfl, rfl, rfl, rfl, rfl, rfl, rfl, rfl⟩
  · exact ⟨rfl, rfl, rfl, rfl, rfl, rfl, rfl, rfl, rfl, rfl, rfl, rfl⟩

end Sys2Proof.Machine
end
